-- ==== Sys2Proof/Word.lean ====
section
/-! DEFINITION. Word.lean: the values the engine works on (spec 00_scope.md R15, R16): bytes, 16-byte blocks indexed
0..15, and the 128-bit port word that carries a block.  Plainest vocabulary only; everything that computes with
bits or byte order stands in Decode.lean and under Machine/. -/

namespace Sys2Proof

/-- R15: a byte is an unsigned 8-bit value; bit 7 is the most significant, bit 0 the least. -/
abbrev Byte := BitVec 8

/-- R16: a block is a vector of 16 bytes indexed 0..15 (`B[i]` reads byte i). -/
abbrev Block := Vector Byte 16

/-- R52: the 128-bit port word that carries a block. -/
abbrev PortWord := BitVec 128

/-- The block `00 x16`. -/
def Block.zero : Block := Vector.replicate 16 0

/-- The 256 byte values in ascending order: the index range of the substitution table (R20). -/
def allBytes : List Byte := (List.range 256).map (BitVec.ofNat 8)

end Sys2Proof
end

