-- ==== Sys2Proof/Config.lean ====
section
/-! DEFINITION. Config.lean: what is fixed when the hardware is built (spec 00_scope.md R9 to R14, 10_state.md R20 to
R24): the model constants, the swap wiring, the constant tables and the open parameters `SBOX`, `MASK`, `HOST_MAP`.
The open ones are opaque constants with no body, so that no proof can see their contents (R8, R12, R13).
`LATENCY` (R14) has no constant: the model's form of it is the window of a host entry (log entry 5). -/

namespace Sys2Proof

/-- R9: `BLOCK_BYTES`. -/
abbrev blockBytes : Nat := 16
/-- R9: `KEY_BYTES`. -/
abbrev keyBytes : Nat := 16
/-- R9: `ROUNDS`; nothing changes the count (R186). -/
abbrev rounds : Nat := 16
/-- R9: `SBOX_ENTRIES`. -/
abbrev sboxEntries : Nat := 256

/-- R10, R23: `SWAP_PAIRS`, fixed wiring, in the source's order. -/
def swapPairs : List (Fin 16 × Fin 16) :=
  [(0, 6), (3, 10), (5, 12), (9, 15), (1, 7), (2, 4), (8, 14), (11, 13)]

/-- The constant tables a datapath function reads (R20, R22): `SBOX : Fin 256 -> Byte`, indexed by the byte's
unsigned value, and `MASK : Fin 16 -> Byte`.  `INV_SBOX` is a function of `SBOX` alone (R21) and `SWAP_PAIRS` is
wiring (R23).  Not every value is an admitted configuration (R102): see `Tables.admitted`. -/
structure Tables where
  sbox : Byte → Byte
  mask : Block

/-- The OPEN parameter `SBOX` (R12, D7), any bijection on the 256 byte values: the type holds exactly the contents
R102 admits, and nothing else about them is known.  DESIGN CHOICE, log entry 1 (safe). -/
opaque Config.sbox : Equiv.Perm Byte

/-- The OPEN parameter `MASK` (R13, D8): any 16 bytes.  Log entry 2 (safe). -/
opaque Config.mask : Block

/-- The tables of the hardware this model is of. -/
def Config.tables : Tables := { sbox := Config.sbox, mask := Config.mask }

/-- What a platform may map into an address space: the five interface registers of R51, and the START action.  R51 and
D2 name the registers only; that a map may give START an address too is a DESIGN CHOICE, log entry 15 (safe). -/
inductive HostPort where
  | cmd | blkIn | keyIn | blkOut | status | start
deriving DecidableEq, Repr

/-- The OPEN parameter `HOST_MAP` (R51, D2): the address a platform gives an interface register, if it maps it at
all.  No rule's value depends on it, so no definition reads it.  Log entry 15 (safe). -/
opaque Config.hostMap : HostPort → Option Nat

/-! ### The spec's own test configurations (95_test_vectors.md §1): never the hardware's tables -/

/-- `MASK_T1[i] = 0x11*i`. -/
def maskT1 : Block :=
  #v[0x00, 0x11, 0x22, 0x33, 0x44, 0x55, 0x66, 0x77, 0x88, 0x99, 0xAA, 0xBB, 0xCC, 0xDD, 0xEE, 0xFF]

/-- T0: identity table, zero mask (admitted). -/
def tablesT0 : Tables := { sbox := fun b => b, mask := Block.zero }

/-- T1: `SBOX_T1(b) = (7*b + 0x63) mod 256` (admitted). -/
def tablesT1 : Tables := { sbox := fun b => 7 * b + 0x63, mask := maskT1 }

/-- T2: `SBOX_T2(b) = b & 0xFE` (not injective: refused by R102). -/
def tablesT2 : Tables := { sbox := fun b => b &&& 0xFE, mask := maskT1 }

/-- `KDOC`, the source's scenario key (95_test_vectors.md §2.1). -/
def keyKDOC : Block :=
  #v[0x1F, 0xA2, 0x3B, 0x4C, 0x55, 0x60, 0x7D, 0x8E, 0x9F, 0xAA, 0xBD, 0xCE, 0xD1, 0xE2, 0xF3, 0x04]

/-- `I = 00 01 .. 0F` (95_test_vectors.md §1). -/
def blockI : Block :=
  #v[0x00, 0x01, 0x02, 0x03, 0x04, 0x05, 0x06, 0x07, 0x08, 0x09, 0x0A, 0x0B, 0x0C, 0x0D, 0x0E, 0x0F]

end Sys2Proof
end

