-- ==== Sys2Proof/Syntax.lean ====
section
/-! DEFINITION. Syntax.lean: the commands (spec 30_encoding.md R70, R71), the errors' names (R31), the host's actions
(10_state.md R25 to R31) and the host language of R76 and R77. -/

namespace Sys2Proof

/-- The rows of spec/opcode_table.json.  The operands are no immediates of the command word: they are the registers
`BLK_IN` and `KEY_IN` (R70), so the constructors carry none. -/
inductive Instr where
  | encrypt   -- CMD.OP = 0, R180
  | decrypt   -- CMD.OP = 1, R182
deriving DecidableEq, Repr

/-- The two errors the spec names (R31, R200, R201); R202: there is no other. -/
inductive EngineError where
  | invalidBlockSize
  | corruptTable
deriving DecidableEq, Repr

/-- A whole command of format `CMD1` (R70): the operation and the two operands, each a byte sequence of any length
(R26, R27). -/
structure Command where
  op  : Instr
  blk : List Byte
  key : List Byte
deriving DecidableEq, Repr

/-- The same command at a fixed-width hardware port (R70): the 1-bit command word and two 128-bit operand words. -/
structure PortWords where
  cmd   : BitVec 1
  blkIn : PortWord
  keyIn : PortWord
deriving DecidableEq, Repr

/-- A name that a READ step binds (R76). -/
abbrev Name := List Char

/-- A `<blk>` operand of the host language (R76): literal bytes, or the result a READ bound to a name. -/
inductive Operand where
  | bytes (bs : List Byte)
  | out (name : Name)
deriving DecidableEq, Repr

/-- The host's actions at the interface (R25 to R30, R57): writing an operand register, issuing START, reading
STATUS or BLK_OUT, asserting reset; and the two compound reads of R76, WAIT (read STATUS until DONE = 1) and READ. -/
inductive HostAction where
  | writeCmd (op : BitVec 1)
  | writeBlk (o : Operand)
  | writeKey (bs : List Byte)
  | start
  | readStatus (name : Name)
  | readOut (name : Name)
  | wait
  | read (name : Name)
  | reset
deriving DecidableEq, Repr

/-- An action of the host and its window: how many moves the engine makes after it before the host's next action
lands; `none`: as many as the running command needs.  It is the model's form of the open `LATENCY` (R14): DESIGN
CHOICE, log entry 5. -/
structure HostEntry where
  action : HostAction
  window : Option Nat
deriving DecidableEq, Repr

/-- What the host has read: the STATUS value and the BLK_OUT value bound to a name, `none` where unbound (R76). -/
structure Reading where
  name   : Name
  status : Option (BitVec 4)
  out    : Option Block
deriving DecidableEq, Repr

/-- The steps of the host language (R76). -/
inductive HostStep where
  | enc (blk : Operand) (key : List Byte)
  | dec (blk : Operand) (key : List Byte)
  | wait
  | read (name : Name)
  | reset
deriving DecidableEq, Repr

/-- A line of a host program: a step of R76 or a pseudo-instruction of R77. -/
inductive HostLine where
  | step (h : HostStep)
  | encw (name : Name) (blk : Operand) (key : List Byte)
  | decw (name : Name) (blk : Operand) (key : List Byte)
deriving DecidableEq, Repr

end Sys2Proof
end

