-- ==== Sys2Proof/WellFormed.lean ====
section
/-! DEFINITION. WellFormed.lean: the checks the spec makes before a value is used: operand lengths (R200), the
admission of a configuration (R102).  Every command word is well-formed (R73). -/

namespace Sys2Proof

/-- R73: no command word is reserved, illegal or a hint. -/
def Instr.wellFormed (i : Instr) : Bool :=
  match i with
  | .encrypt => true
  | .decrypt => true

/-- R200: an operand is exactly 16 bytes. -/
def lengthOk (bs : List Byte) : Bool := bs.length == blockBytes

/-- R73: a wrong operand length is the only malformed command. -/
def Command.wellFormed (c : Command) : Bool := c.op.wellFormed && lengthOk c.blk && lengthOk c.key

/-- R102: for all k1 != k2, `SBOX[k1] != SBOX[k2]`, checked over the 256 entries.  Any mask is admitted (R13). -/
def Tables.admitted (t : Tables) : Bool :=
  allBytes.all fun k1 => allBytes.all fun k2 => k1 == k2 || t.sbox k1 != t.sbox k2

/-- Why a configuration is refused. -/
inductive ConfigRefusal where
  /-- R102: two entries of `SBOX` are equal.  Raised by `Tables.build`; safe (the configuration is not modelled). -/
  | sboxNotBijective
deriving DecidableEq, Repr

/-- Tables together with the check they passed. -/
structure AdmittedTables where
  tables   : Tables
  admitted : tables.admitted = true

/-- R102: a model checks the table when it builds the configuration and refuses one that fails the check. -/
def Tables.build (t : Tables) : Except ConfigRefusal AdmittedTables :=
  if h : t.admitted = true then .ok ⟨t, h⟩ else .error .sboxNotBijective

/-- A hexadecimal digit of an operand of R76, in either case. -/
def isHexDigit (c : Char) : Bool :=
  ('0' ≤ c && c ≤ '9') || ('a' ≤ c && c ≤ 'f') || ('A' ≤ c && c ≤ 'F')

/-- R76: an operand literal is an even, non-zero number of hexadecimal digits. -/
def hexLiteralOk (cs : List Char) : Bool := !cs.isEmpty && cs.all isHexDigit && cs.length % 2 == 0

/-- A name of the host language: letters, digits and underscores, a letter first.  DESIGN CHOICE, log entry 12. -/
def nameOk (cs : List Char) : Bool :=
  match cs with
  | [] => false
  | c :: rest => c.isAlpha && rest.all fun d => d.isAlphanum || d == '_'

end Sys2Proof
end

