-- ==== Sys2Proof/Decode.lean ====
section
/-! DEFINITION. Decode.lean: the command word and the operand ports (spec 30_encoding.md R70 to R74, 20_memory.md R52).
The decoder is total; the encoder after it is written from the same tables. -/

namespace Sys2Proof

/-- Why a bit string is no command. -/
inductive DecodeReject where
  /-- There is no bit 0, hence no command word (R70: a command word is one bit).  Safe. -/
  | noCommandBit
deriving DecidableEq, Repr

/-- R71, the opcode map: `CMD.OP` = 0 is ENCRYPT, 1 is DECRYPT. -/
def decodeCmd (op : BitVec 1) : Instr :=
  if op.getLsbD 0 then .decrypt else .encrypt

/-- R70: the decoder reads only bit 0 of the command bits (least significant first); R74: every command has this
one length. -/
def decode (bits : List Bool) : Except DecodeReject Instr :=
  match bits with
  | [] => .error .noCommandBit
  | op :: _ => .ok (decodeCmd (BitVec.ofBool op))

/-- The low `nbits` bits of `w`, least significant first. -/
def wordBits (nbits w : Nat) : List Bool := (List.range nbits).map fun k => w.testBit k

/-- The instruction the decoder reads from the bits the opcode table numbers. -/
def decodeTableWord (nbits w : Nat) : Option Instr :=
  match decode (wordBits nbits w) with
  | .ok i => some i
  | .error _ => none

/-- R71 read the other way: the 1-bit command word of an instruction. -/
def encode (i : Instr) : BitVec 1 :=
  match i with
  | .encrypt => 0
  | .decrypt => 1

/-- R200: a byte sequence of exactly 16 bytes is a block, byte i of the sequence being byte i of the block (R26);
any other length is none. -/
def blockOfBytes (bs : List Byte) : Option Block :=
  if h : bs.length = 16 then some ⟨bs.toArray, by simpa using h⟩ else none

/-- `{w, b}` on a 128-bit port: a byte put below the bytes before it. -/
def packStep (w : PortWord) (b : Byte) : PortWord := (w <<< 8) ||| b.setWidth 128

/-- R52: the port word of a block is `{B[0], B[1], ..., B[15]}`, byte 0 most significant. -/
def packBlock (B : Block) : PortWord :=
  B.toList.foldl packStep 0

/-- R52, R72: byte i of a block is `W[127-8i : 120-8i]`. -/
def unpackBlock (W : PortWord) : Block :=
  Vector.ofFn fun i : Fin 16 => W.extractLsb' (120 - 8 * i.val) 8

/-- R70, R72: what the three parts of a `CMD1` command at a hardware port say. -/
def decodeCommand (p : PortWords) : Command :=
  { op := decodeCmd p.cmd, blk := (unpackBlock p.blkIn).toList, key := (unpackBlock p.keyIn).toList }

/-- R70: the three parts of a command at a hardware port; none where an operand is not 16 bytes, which a fixed-width
port cannot carry (R73). -/
def encodeCommand (c : Command) : Option PortWords :=
  match blockOfBytes c.blk, blockOfBytes c.key with
  | some b, some k => some { cmd := encode c.op, blkIn := packBlock b, keyIn := packBlock k }
  | _, _ => none

end Sys2Proof
end

