-- ==== Sys2Proof/Machine/State.lean ====
section
/-! DEFINITION. Machine/State.lean: everything the spec gives the engine and its host interface (10_state.md R25 to
R36), as plain data, and the state right after reset (70_reset_and_hazards.md R230).  The constant tables are
configuration, not state (R24); there is no memory, pc or register file (R33, R50). -/

namespace Sys2Proof.Machine

/-- R33: `PH`, the phase. -/
inductive Phase where
  | idle | runEnc | runDec
deriving DecidableEq, Repr

/-- Why the machine stops: the two host reads the spec itself calls a fault in the model.  Neither is raised by a
command: an error of a command is a next state (R204).  The fault of R241 does not stop the machine: it is recorded
in `State.startFault`, and no command runs (log entry 4). -/
inductive Fault where
  /-- R243: a host read of `BLK_OUT` while it is `INVALID`.  Raised by the host's reading of BLK_OUT; safe. -/
  | readInvalidResult
  /-- R76: a use of `<name>.out` where it is unbound.  Raised by the host's writing of BLK_IN; safe. -/
  | unboundName
deriving DecidableEq, Repr

/-- Why there is no step. -/
inductive Refusal where
  /-- No meaning yet for the instruction.  Raised by an arm of exec; safe. -/
  | notModelled (mnemonic : String)
  /-- R240: a command is not accepted while `PH != IDLE` (a refusal, not a queued command).  Raised by both commands;
  the host's START action is held instead and never meets it.  Safe. -/
  | startWhileBusy
  /-- R30, R31 and 93_implementation_defined.md items 14, 15: an observation of a STATUS value that is reserved or
  never produced.  Raised by the host's reads of STATUS; safe. -/
  | reservedStatus
deriving DecidableEq, Repr

/-- The engine, its interface registers and its host. -/
structure State where
  /-- R25: `CMD`, host-written; bit 0 is `CMD.OP`. -/
  cmd : BitVec 1
  /-- R26: `BLK_IN`, host-written, a byte sequence of any length. -/
  blkIn : List Byte
  /-- R27: `KEY_IN`, host-written, a byte sequence of any length. -/
  keyIn : List Byte
  /-- R29: `BLK_OUT`, engine-written; `none` is the mark `INVALID`. -/
  blkOut : Option Block
  /-- R30: `STATUS`: bit 0 BUSY, bit 1 DONE, bits 3:2 ERR. -/
  status : BitVec 4
  /-- R32: `S`, the working state. -/
  work : Block
  /-- R33: `PH`. -/
  ph : Phase
  /-- R33, R186: `RC`, the rounds completed by the running command, 0..16. -/
  rc : Fin 17
  /-- R33: `KR`, the key latch. -/
  kr : Block
  /-- R33: `OPR`, the operation latch. -/
  opr : BitVec 1
  /-- R241: the host has written `CMD` since reset. -/
  cmdWritten : Bool
  /-- R241: the host has written `BLK_IN` since reset. -/
  blkWritten : Bool
  /-- R241: the host has written `KEY_IN` since reset. -/
  keyWritten : Bool
  /-- The model's own field (log entry 4): the record of the fault of R241, that some START was issued before the host
  had written `CMD`, `BLK_IN` and `KEY_IN` since reset. -/
  startFault : Bool
  /-- The model's own field (log entries 5, 11): the actions the host has still to do, the next one first. -/
  host : List HostEntry
  /-- R76: what the host has read, the latest first. -/
  reads : List Reading
  /-- The model's own field (log entry 5): the window of the action under way. -/
  window : Option Nat
deriving DecidableEq, Repr

/-- What a step, or a command, answers. -/
abbrev Result := Host.Outcome State Fault Refusal

/-- R36, R230: `PH = IDLE`, `STATUS = 0b0000`, `BLK_OUT = INVALID`.  `S`, `RC`, `KR`, `OPR`, `CMD`, `BLK_IN` and
`KEY_IN` are unspecified there: zero (the operands 16 zero bytes) is a DESIGN CHOICE, log entry 3 (unsafe).  The
host has written nothing, and has nothing to do until a program is given to it (log entry 18). -/
def State.reset : State :=
  { cmd := 0, blkIn := List.replicate 16 0, keyIn := List.replicate 16 0, blkOut := none, status := 0
    work := Block.zero, ph := .idle, rc := 0, kr := Block.zero, opr := 0
    cmdWritten := false, blkWritten := false, keyWritten := false, startFault := false
    host := [], reads := [], window := none }

end Sys2Proof.Machine
end

