-- ==== Sys2Proof/Machine/Flags.lean ====
section
/-! DEFINITION. Machine/Flags.lean: the STATUS register's fields and values (spec 10_state.md R30, R31). -/

namespace Sys2Proof.Machine

/-- R30: bit 0, BUSY. -/
def statusBusy (st : BitVec 4) : Bool := st.getLsbD 0

/-- R30: bit 1, DONE. -/
def statusDone (st : BitVec 4) : Bool := st.getLsbD 1

/-- R30: bits 3:2, ERR. -/
def statusErr (st : BitVec 4) : BitVec 2 := st.extractLsb' 2 2

/-- A STATUS value from its three fields (R30): `{ERR, DONE, BUSY}`. -/
def mkStatus (busy done : Bool) (err : BitVec 2) : BitVec 4 :=
  (err ++ BitVec.ofBool done) ++ BitVec.ofBool busy

/-- R31: ERR = 0, NONE. -/
def errNone : BitVec 2 := 0

/-- R31: the code of an error; 3 is reserved and is no error's code. -/
def errCode (e : EngineError) : BitVec 2 :=
  match e with
  | .invalidBlockSize => 1
  | .corruptTable => 2

/-- R30: only these STATUS values can occur. -/
def legalStatus (st : BitVec 4) : Bool :=
  st == 0b0000 || st == 0b0001 || st == 0b0010 || st == 0b0110 || st == 0b1010

/-- R29: `BLK_OUT` is valid exactly when `STATUS.DONE = 1` and `STATUS.ERR = 0`. -/
def resultValid (st : BitVec 4) : Bool := statusDone st && statusErr st == errNone

end Sys2Proof.Machine
end

