-- ==== Sys2Proof/Machine/Ops.lean ====
section
/-! DEFINITION. Machine/Ops.lean: the atomic state transitions of the interface and the engine (spec 10_state.md R36 to
R39), each written once.  Taking an error is `takeError`; there is no return from one (R205). -/

namespace Sys2Proof.Machine

/-- R33, R37: the phase in which an accepted command runs. -/
def runPhase (i : Instr) : Phase :=
  match i with
  | .encrypt => .runEnc
  | .decrypt => .runDec

/-- R37, the part before the length check: `OPR` latched, BUSY set, DONE and ERR cleared, the old result
invalidated. -/
def latchCommand (i : Instr) (s : State) : State :=
  { s with opr := encode i, status := mkStatus true false errNone, blkOut := none }

/-- R37, the part after the length check; R72: the operands unmodified. -/
def loadOperands (i : Instr) (b k : Block) (s : State) : State :=
  { s with work := b, kr := k, rc := 0, ph := runPhase i }

/-- Error completion, R39 and R204: the one way any error is taken.  Nothing but `BLK_OUT`, `STATUS` and `PH`
changes: there is no saved pc, cause register, vector or mode. -/
def takeError (e : EngineError) (s : State) : State :=
  { s with blkOut := none, status := mkStatus false true (errCode e), ph := .idle }

/-- Normal completion, R38, with the result in `S`. -/
def complete (s : State) : State :=
  { s with blkOut := some s.work, status := mkStatus false true errNone, ph := .idle }

/-- R185: after a round, `S` holds the round's value and `RC` counts it. -/
def endRound (b : Block) (s : State) : State :=
  { s with work := b, rc := s.rc + 1 }

/-- Writing `S` alone (a key XOR outside the rounds, R180 and R182). -/
def setWork (b : Block) (s : State) : State := { s with work := b }

/-- Command acceptance, R37 (with R200, R203): latch, check both lengths together, then load the operands or take
the error. -/
def accept (i : Instr) (s : State) : State :=
  match blockOfBytes s.blkIn, blockOfBytes s.keyIn with
  | some b, some k => loadOperands i b k (latchCommand i s)
  | _, _ => takeError .invalidBlockSize (latchCommand i s)

/-- R230, R231: reset of the engine and its interface, at any time; a running command is abandoned.  What the host
still has to do and has read is the host's and stays, and so does the record of R241 (log entries 9, 4). -/
def resetEngine (s : State) : State :=
  { State.reset with startFault := s.startFault, host := s.host, reads := s.reads, window := s.window }

/-- The host goes on to its next action. -/
def nextAction (rest : List HostEntry) (w : Option Nat) (s : State) : State :=
  { s with host := rest, window := w }

/-- R25: the host writes `CMD`. -/
def writeCmd (op : BitVec 1) (s : State) : State := { s with cmd := op, cmdWritten := true }

/-- R26: the host writes `BLK_IN`. -/
def writeBlk (bs : List Byte) (s : State) : State := { s with blkIn := bs, blkWritten := true }

/-- R27: the host writes `KEY_IN`. -/
def writeKey (bs : List Byte) (s : State) : State := { s with keyIn := bs, keyWritten := true }

/-- R76: a read binds a name.  R57: it changes nothing of the engine. -/
def bindReading (r : Reading) (s : State) : State := { s with reads := r :: s.reads }

end Sys2Proof.Machine
end

