-- ==== Sys2Proof/Machine/Operands.lean ====
section
/-! DEFINITION. Machine/Operands.lean: the operand forms: what an operand of the host language stands for (R76), and
whether the host has written the operand registers (R241). -/

namespace Sys2Proof.Machine

/-- The latest reading under a name. -/
def findReading (name : Name) (rs : List Reading) : Option Reading :=
  match rs with
  | [] => none
  | r :: rest => if r.name = name then some r else findReading name rest

/-- R76: `<name>.out`, none where it is unbound (no such reading, or one taken while there was no valid result). -/
def boundOut (name : Name) (rs : List Reading) : Option Block :=
  match findReading name rs with
  | none => none
  | some r => r.out

/-- R76: the bytes an operand stands for: a literal's own, of any length, or the bound result. -/
def operandBytes (o : Operand) (rs : List Reading) : Option (List Byte) :=
  match o with
  | .bytes bs => some bs
  | .out name => (boundOut name rs).map fun b => b.toList

/-- R241: the host has written all three operand registers since reset. -/
def operandsWritten (s : State) : Bool := s.cmdWritten && s.blkWritten && s.keyWritten

/-- R241: a START before the host has written all three is a fault, which the model records; once recorded, it stays so
(log entry 4). -/
def recordStart (s : State) : State := { s with startFault := true }

end Sys2Proof.Machine
end

