-- ==== Sys2Proof/Machine/Substitution.lean ====
section
/-! DEFINITION. Machine/Substitution.lean: the substitution layer (spec 40_substitution.md R100 to R104, 10_state.md
R21). -/

namespace Sys2Proof.Machine

/-- R100: `SUB_BYTE(b) = SBOX[b]`. -/
def subByte (t : Tables) (b : Byte) : Byte := t.sbox b

/-- R21: `INV_SBOX[b]`, the least k with `SBOX[k] = b`, or NONE: an ascending scan over the table. -/
@[irreducible] def invSbox (t : Tables) (b : Byte) : Option Byte := allBytes.find? fun k => t.sbox k == b

/-- R101: `INVSUB_BYTE(b)`; it raises CorruptTableError where b has no preimage. -/
def invSubByte (t : Tables) (b : Byte) : Except EngineError Byte :=
  match invSbox t b with
  | some k => .ok k
  | none => .error .corruptTable

end Sys2Proof.Machine
end

