-- ==== Sys2Proof/Machine/BytePermutation.lean ====
section
/-! DEFINITION. Machine/BytePermutation.lean: the byte-permutation network (spec 41_byte_permutation.md R120 to R126).
The inverse forms scatter as their pseudocode does: every position of `out` is written once, so the block the
scatter starts from does not matter. -/

namespace Sys2Proof.Machine

/-- The block indices 0..15, counting up. -/
def blockIndices : List (Fin 16) := [0, 1, 2, 3, 4, 5, 6, 7, 8, 9, 10, 11, 12, 13, 14, 15]

/-- `for i = 0 to 15: out[f i] <- B[i]`. -/
@[irreducible] def scatter (f : Fin 16 → Fin 16) (B : Block) : Block :=
  blockIndices.foldl (fun out i => out.set (f i) B[i]) Block.zero

/-- R120: `out[i] <- B[(i + 8) mod 16]`. -/
@[irreducible] def colRot (B : Block) : Block := Vector.ofFn fun i : Fin 16 => B[(i.val + 8) % 16]

/-- R121: `out[(i + 8) mod 16] <- B[i]`. -/
@[irreducible] def colRotInv (B : Block) : Block := scatter (fun i => ⟨(i.val + 8) % 16, by omega⟩) B

/-- R122: over the eight pairs (a, b), `out[a] <- B[b]` and `out[b] <- B[a]`. -/
@[irreducible] def fixedSwap (B : Block) : Block :=
  swapPairs.foldl (fun out p => (out.set p.1 B[p.2]).set p.2 B[p.1]) B

/-- R123: with byte `4*r + c` in row r, column c, `out[4*r + c] <- B[4*r + ((c + 2) mod 4)]`. -/
@[irreducible] def rowRot (B : Block) : Block :=
  Vector.ofFn fun i : Fin 16 => B[4 * (i.val / 4) + (i.val % 4 + 2) % 4]

/-- R124: `out[4*r + ((c + 2) mod 4)] <- B[4*r + c]`. -/
@[irreducible] def rowRotInv (B : Block) : Block :=
  scatter (fun i => ⟨4 * (i.val / 4) + (i.val % 4 + 2) % 4, by omega⟩) B

end Sys2Proof.Machine
end

