-- ==== Sys2Proof/Machine/BitMixing.lean ====
section
/-! DEFINITION. Machine/BitMixing.lean: the bit-interleave-and-rotate mixing layer (spec 42_bit_mixing.md R140 to R145,
00_scope.md R17). -/

namespace Sys2Proof.Machine

/-- R17: `rotl16(v, n)`. -/
def rotl16 (v : BitVec 16) (n : Nat) : BitVec 16 := (v <<< n) ||| (v >>> (16 - n))

/-- R17: `rotr16(v, n)`. -/
def rotr16 (v : BitVec 16) (n : Nat) : BitVec 16 := (v >>> n) ||| (v <<< (16 - n))

/-- R17: `{a, b}` of two bytes: a in bits 15:8, b in bits 7:0. -/
def pair16 (a b : Byte) : BitVec 16 := (a.setWidth 16 <<< 8) ||| b.setWidth 16

/-- R140: `v[2k+1] = u[k]` and `v[2k] = l[k]` for k = 0..7. -/
@[irreducible] def interleave (u l : Byte) : BitVec 16 :=
  BitVec.ofFnLE fun j : Fin 16 => if j.val % 2 = 1 then u.getLsbD (j.val / 2) else l.getLsbD (j.val / 2)

/-- R141: `u[k] = v[2k+1]` and `l[k] = v[2k]` for k = 0..7. -/
@[irreducible] def deinterleave (v : BitVec 16) : Byte × Byte :=
  (BitVec.ofFnLE fun k : Fin 8 => v.getLsbD (2 * k.val + 1), BitVec.ofFnLE fun k : Fin 8 => v.getLsbD (2 * k.val))

/-- R140: `PAIR_MIX(u, l)`, the source's shake. -/
@[irreducible] def pairMix (u l : Byte) : Byte × Byte :=
  let r := rotl16 (interleave u l) 4
  (r.extractLsb' 8 8, r.extractLsb' 0 8)

/-- R141: `PAIR_UNMIX(u', l')`, the source's unshake. -/
@[irreducible] def pairUnmix (u l : Byte) : Byte × Byte := deinterleave (rotr16 (pair16 u l) 4)

/-- One step of a chain: `(T[i], T[i+1]) <- f(T[i], T[i+1])`.  R54, R142 (D5): `upper` is the byte at the lower
index. -/
def pairStep (f : Byte → Byte → Byte × Byte) (T : Block) (i : Fin 15) : Block :=
  let p := f T[i.val] T[i.val + 1]
  (T.set i.val p.1).set (i.val + 1) p.2

/-- The order of the chain, counting up: i = 0 to 14 (R142). -/
def chainUp : List (Fin 15) := [0, 1, 2, 3, 4, 5, 6, 7, 8, 9, 10, 11, 12, 13, 14]

/-- The order of the inverse chain, counting down: i = 14 downto 0 (R143, R145). -/
def chainDown : List (Fin 15) := [14, 13, 12, 11, 10, 9, 8, 7, 6, 5, 4, 3, 2, 1, 0]

/-- R142: `BLOCK_MIX(B)`, the source's boil. -/
@[irreducible] def blockMix (B : Block) : Block := chainUp.foldl (pairStep pairMix) B

/-- R143: `BLOCK_UNMIX(B)`. -/
@[irreducible] def blockUnmix (B : Block) : Block := chainDown.foldl (pairStep pairUnmix) B

end Sys2Proof.Machine
end

