-- ==== Sys2Proof/Machine/RoundFunction.lean ====
section
/-! DEFINITION. Machine/RoundFunction.lean: key and mask XOR, block substitution, the two pipelines and the rounds (spec
43_round_function.md R160 to R168).  A function that may raise answers in `Except EngineError`. -/

namespace Sys2Proof.Machine

/-- R160: `KEY_XOR(B, K)`, byte i with byte i (D6). -/
@[irreducible] def keyXor (B K : Block) : Block := Vector.ofFn fun i : Fin 16 => B[i] ^^^ K[i]

/-- R161: `MASK_XOR(B)`, byte i with byte i (D6). -/
@[irreducible] def maskXor (t : Tables) (B : Block) : Block := Vector.ofFn fun i : Fin 16 => B[i] ^^^ t.mask[i]

/-- R162: `SUB_BLOCK(B)`. -/
@[irreducible] def subBlock (t : Tables) (B : Block) : Block := Vector.ofFn fun i : Fin 16 => subByte t B[i]

/-- R163: `INVSUB_BLOCK(B)`: `out[i] <- INVSUB_BYTE(B[i])`; CorruptTableError if any byte has no preimage. -/
@[irreducible] def invSubBlock (t : Tables) (B : Block) : Except EngineError Block :=
  if h : ∀ i : Fin 16, (invSbox t B[i]).isSome = true then
    .ok (Vector.ofFn fun i : Fin 16 => (invSbox t B[i]).get (h i))
  else .error .corruptTable

/-- R164: `FWD_PIPE(B)`, seven steps in this order; the mask once (C2). -/
@[irreducible] def fwdPipe (t : Tables) (B : Block) : Block :=
  let T := colRot B
  let T := fixedSwap T
  let T := blockMix T
  let T := maskXor t T
  let T := rowRot T
  let T := fixedSwap T
  blockMix T

/-- R165: `INV_PIPE(B)`, seven steps in this order. -/
@[irreducible] def invPipe (t : Tables) (B : Block) : Block :=
  let T := blockUnmix B
  let T := fixedSwap T
  let T := rowRotInv T
  let T := maskXor t T
  let T := blockUnmix T
  let T := fixedSwap T
  colRotInv T

/-- R166: `ENC_ROUND(B, K) = FWD_PIPE(SUB_BLOCK(KEY_XOR(B, K)))`. -/
@[irreducible] def encRound (t : Tables) (B K : Block) : Block := fwdPipe t (subBlock t (keyXor B K))

/-- R167: `DEC_ROUND(B, K) = KEY_XOR(INVSUB_BLOCK(INV_PIPE(B)), K)`; may raise. -/
@[irreducible] def decRound (t : Tables) (B K : Block) : Except EngineError Block :=
  match invSubBlock t (invPipe t B) with
  | .ok T => .ok (keyXor T K)
  | .error e => .error e

end Sys2Proof.Machine
end

