-- ==== Sys2Proof/Machine/Cipher.lean ====
section
/-! DEFINITION. Machine/Cipher.lean: the 16-round datapaths as functions of (block, key) (spec 44_cipher_engine.md R180
to R186).  The machine runs them a round at a time (Machine/Engine.lean). -/

namespace Sys2Proof.Machine

/-- R185: `E_r`: `E_0 = B`, `E_r = ENC_ROUND(E_{r-1}, K)`.  R11: every round uses the key itself. -/
def encRounds (t : Tables) (B K : Block) : Nat → Block
  | 0 => B
  | r + 1 => encRound t (encRounds t B K r) K

/-- R180, R185: `ENCRYPT(B, K) = KEY_XOR(E_16, K)`. -/
def encryptBlock (t : Tables) (B K : Block) : Block := keyXor (encRounds t B K rounds) K

/-- R185: `D_r`: `D_0 = KEY_XOR(C, K)`, `D_r = DEC_ROUND(D_{r-1}, K)`; the first error raised ends it (R203). -/
def decRounds (t : Tables) (C K : Block) : Nat → Except EngineError Block
  | 0 => .ok (keyXor C K)
  | r + 1 =>
    match decRounds t C K r with
    | .ok D => decRound t D K
    | .error e => .error e

/-- R182, R185: `DECRYPT(C, K) = D_16`. -/
def decryptBlock (t : Tables) (C K : Block) : Except EngineError Block := decRounds t C K rounds

/-- R184: the datapath steps of the flat micro-sequence. -/
inductive MicroOp where
  | keyXor | subBlock | colRot | fixedSwap | blockMix | maskXor | rowRot
  | blockUnmix | rowRotInv | colRotInv | invSubBlock
deriving DecidableEq, Repr

/-- One datapath step on `S` with the key latch. -/
def microStep (t : Tables) (K : Block) (op : MicroOp) (S : Block) : Except EngineError Block :=
  match op with
  | .keyXor => .ok (Sys2Proof.Machine.keyXor S K)
  | .subBlock => .ok (Sys2Proof.Machine.subBlock t S)
  | .colRot => .ok (Sys2Proof.Machine.colRot S)
  | .fixedSwap => .ok (Sys2Proof.Machine.fixedSwap S)
  | .blockMix => .ok (Sys2Proof.Machine.blockMix S)
  | .maskXor => .ok (Sys2Proof.Machine.maskXor t S)
  | .rowRot => .ok (Sys2Proof.Machine.rowRot S)
  | .blockUnmix => .ok (Sys2Proof.Machine.blockUnmix S)
  | .rowRotInv => .ok (Sys2Proof.Machine.rowRotInv S)
  | .colRotInv => .ok (Sys2Proof.Machine.colRotInv S)
  | .invSubBlock => Sys2Proof.Machine.invSubBlock t S

/-- A list of datapath steps on `S`, in order; the first error ends it. -/
def microRun (t : Tables) (K : Block) : List MicroOp → Block → Except EngineError Block
  | [], S => .ok S
  | op :: ops, S =>
    match microStep t K op S with
    | .ok T => microRun t K ops T
    | .error e => .error e

/-- R184: one round of `ENCRYPT`'s sequence. -/
def encRoundOps : List MicroOp :=
  [.keyXor, .subBlock, .colRot, .fixedSwap, .blockMix, .maskXor, .rowRot, .fixedSwap, .blockMix]

/-- R184: one round of `DECRYPT`'s sequence. -/
def decRoundOps : List MicroOp :=
  [.blockUnmix, .fixedSwap, .rowRotInv, .maskXor, .blockUnmix, .fixedSwap, .colRotInv, .invSubBlock, .keyXor]

/-- n copies of a list of steps. -/
def repeatOps (n : Nat) (ops : List MicroOp) : List MicroOp := (List.replicate n ops).flatten

/-- R184: `ENCRYPT`'s 145 steps. -/
def encryptOps : List MicroOp := repeatOps rounds encRoundOps ++ [.keyXor]

/-- R184: `DECRYPT`'s 145 steps. -/
def decryptOps : List MicroOp := [.keyXor] ++ repeatOps rounds decRoundOps

/-- The step that undoes a step (R126, R144, R160, R161, R103). -/
def inverseOp (op : MicroOp) : MicroOp :=
  match op with
  | .keyXor => .keyXor
  | .subBlock => .invSubBlock
  | .colRot => .colRotInv
  | .fixedSwap => .fixedSwap
  | .blockMix => .blockUnmix
  | .maskXor => .maskXor
  | .rowRot => .rowRotInv
  | .blockUnmix => .blockMix
  | .rowRotInv => .rowRot
  | .colRotInv => .colRot
  | .invSubBlock => .subBlock

end Sys2Proof.Machine
end

