-- ==== Sys2Proof/Machine/Engine.lean ====
section
/-! DEFINITION. Machine/Engine.lean: the engine's own moves (spec 44_cipher_engine.md R180, R182, R185; 10_state.md R38,
R39).  A move is a round or the completion (log entry 6); the host sees no move but by `STATUS` and `BLK_OUT` (R35). -/

namespace Sys2Proof.Machine

/-- R180, one move of a running ENCRYPT: a round while `RC` < 16, else the final whitening and completion. -/
def advanceEnc (t : Tables) (s : State) : State :=
  if s.rc.val < rounds then endRound (encRound t s.work s.kr) s
  else complete (setWork (keyXor s.work s.kr) s)

/-- R182: the value a DECRYPT's next round starts from: before the first round, the key XOR of the input (`D_0`). -/
def decInput (s : State) : Block := if s.rc.val = 0 then keyXor s.work s.kr else s.work

/-- R182, one move of a running DECRYPT: a round while `RC` < 16, which may raise (R201), else completion. -/
def advanceDec (t : Tables) (s : State) : State :=
  if s.rc.val < rounds then
    match decRound t (decInput s) s.kr with
    | .ok b => endRound b s
    | .error e => takeError e (setWork (decInput s) s)
  else complete s

/-- One move of the engine; idle, it has none (R212). -/
def advance (t : Tables) (s : State) : State :=
  match s.ph with
  | .idle => s
  | .runEnc => advanceEnc t s
  | .runDec => advanceDec t s

/-- n moves of the engine. -/
def advanceN (t : Tables) : Nat → State → State
  | 0, s => s
  | n + 1, s => advanceN t n (advance t s)

/-- How many moves bring any running command to its end: 16 rounds and the completion (R186). -/
def movesToEnd : Nat := rounds + 1

/-- The engine's moves before the host's next action lands (log entry 5). -/
def runWindow (t : Tables) (s : State) : State :=
  match s.window with
  | none => advanceN t movesToEnd s
  | some n => advanceN t n s

end Sys2Proof.Machine
end

