-- ==== Sys2Proof/Machine/Commands.lean ====
section
/-! DEFINITION. Machine/Commands.lean: the meanings of the two commands (spec 44_cipher_engine.md R180, R182): acceptance
(R37), then the engine's moves until the command completes (R38, R39) or the host's next action lands.  Each is
written over any tables (R24) and taken at the hardware's. -/

namespace Sys2Proof.Machine

/-- A command issued at the engine: R37 accepts it while `PH = IDLE`; R240 refuses it otherwise. -/
def runCommand (t : Tables) (i : Instr) (s : State) : Result :=
  match s.ph with
  | .idle => .next (runWindow t (accept i s))
  | .runEnc => .refused .startWhileBusy
  | .runDec => .refused .startWhileBusy

/-- R180: ENCRYPT over given tables. -/
def encryptIn (t : Tables) (s : State) : Result := runCommand t .encrypt s

/-- R182: DECRYPT over given tables. -/
def decryptIn (t : Tables) (s : State) : Result := runCommand t .decrypt s

/-- R180: ENCRYPT. -/
def execEncrypt (s : State) : Result := encryptIn Config.tables s

/-- R182: DECRYPT. -/
def execDecrypt (s : State) : Result := decryptIn Config.tables s

/-- Both commands over given tables: for configurations other than the hardware's (T0, T1, T2). -/
def execIn (t : Tables) (i : Instr) (s : State) : Result :=
  match i with
  | .encrypt => encryptIn t s
  | .decrypt => decryptIn t s

end Sys2Proof.Machine
end

