-- ==== Sys2Proof/Machine/HostActions.lean ====
section
/-! DEFINITION. Machine/HostActions.lean: one step of host and engine together (spec 10_state.md R25 to R31,
70_reset_and_hazards.md R230 to R245, 30_encoding.md R76).  Each function is written over any tables and over the
commands' meaning `run`, so that the same text serves the hardware and a test configuration. -/

namespace Sys2Proof.Machine

/-- R76: the reading of READ, and whether it may be taken: STATUS always; BLK_OUT only if DONE = 1 and ERR = 0, and
then R243 applies to it. -/
def readResult (name : Name) (s : State) : Except Fault Reading :=
  if resultValid s.status then
    match s.blkOut with
    | some b => .ok { name := name, status := some s.status, out := some b }
    | none => .error .readInvalidResult
  else .ok { name := name, status := some s.status, out := none }

/-- R28, R37, R240, R241: START with the engine idle runs the command in `CMD`, if the host has written all three operand
registers since reset; if not, it is the fault of R241, which the model records, and never a value: no command is
accepted (log entry 4).  While a command runs the host is held: the engine moves and START stays the next action (log
entry 8). -/
def doStart (t : Tables) (run : Instr → State → Result) (s s1 : State) : Result :=
  match s.ph with
  | .idle => if operandsWritten s then run (decodeCmd s.cmd) s1 else .next (recordStart s1)
  | .runEnc => .next (advance t s)
  | .runDec => .next (advance t s)

/-- R26, R76: writing `BLK_IN`. -/
def doWriteBlk (t : Tables) (o : Operand) (s1 : State) : Result :=
  match operandBytes o s1.reads with
  | some bs => .next (runWindow t (writeBlk bs s1))
  | none => .fault .unboundName

/-- R30: reading STATUS alone. -/
def doReadStatus (t : Tables) (name : Name) (s1 : State) : Result :=
  if legalStatus s1.status then
    .next (runWindow t (bindReading { name := name, status := some s1.status, out := none } s1))
  else .refused .reservedStatus

/-- R29, R243: reading BLK_OUT alone. -/
def doReadOut (t : Tables) (name : Name) (s1 : State) : Result :=
  match s1.blkOut with
  | some b => .next (runWindow t (bindReading { name := name, status := none, out := some b } s1))
  | none => .fault .readInvalidResult

/-- R76, R242: WAIT reads STATUS until DONE = 1; a poll that does not see it lets the engine move. -/
def doWait (t : Tables) (s s1 : State) : Result :=
  if legalStatus s.status then
    if statusDone s.status then .next (runWindow t s1) else .next (advance t s)
  else .refused .reservedStatus

/-- R76: READ. -/
def doRead (t : Tables) (name : Name) (s1 : State) : Result :=
  if legalStatus s1.status then
    match readResult name s1 with
    | .ok r => .next (runWindow t (bindReading r s1))
    | .error f => .fault f
  else .refused .reservedStatus

/-- The host's next action; `s` is the state before it, `s1` the same state with the action taken from the host's
list. -/
def doAction (t : Tables) (run : Instr → State → Result) (a : HostAction) (s s1 : State) : Result :=
  match a with
  | .writeCmd op => .next (runWindow t (writeCmd op s1))
  | .writeBlk o => doWriteBlk t o s1
  | .writeKey bs => .next (runWindow t (writeKey bs s1))
  | .start => doStart t run s s1
  | .readStatus name => doReadStatus t name s1
  | .readOut name => doReadOut t name s1
  | .wait => doWait t s s1
  | .read name => doRead t name s1
  | .reset => .next (resetEngine s1)

/-- One step: the host's next action and the engine's moves until the one after it lands; with nothing left for the
host to do, one move of the engine. -/
def stepIn (t : Tables) (run : Instr → State → Result) (s : State) : Result :=
  match s.host with
  | [] => .next (advance t s)
  | e :: rest => doAction t run e.action s (nextAction rest e.window s)

/-- The opcode-table word `w` as `CMD`'s content: bit 0 of its low `nbits` bits (R70). -/
def fetchCmd (nbits w : Nat) : BitVec 1 := BitVec.ofBool ((wordBits nbits w).headD false)

/-- A state whose very next step issues the command in `w`: `CMD` holds it, the operand registers count as written,
the engine is idle and START, with nothing landing inside the command, is the host's next action (log entry 18). -/
def placeCommand (s : State) (nbits w : Nat) : State :=
  { s with
    cmd := fetchCmd nbits w, cmdWritten := true, blkWritten := true, keyWritten := true, ph := .idle
    host := { action := .start, window := none } :: s.host }

end Sys2Proof.Machine
end

