-- ==== Sys2Proof/Machine/Step.lean ====
section
/-! DEFINITION. Machine/Step.lean: the step of the machine, and how the host's checks place a command (log entry 18). -/

namespace Sys2Proof.Machine

/-- One step of the machine: `stepIn` at the hardware's tables, with the commands' meaning from Dispatch. -/
def step (s : State) : Host.Outcome State Fault Refusal := stepIn Config.tables exec s

/-- The state `s` with the table's word placed so that the next step runs it. -/
def State.withFetchWord (s : State) (nbits w : Nat) : State := placeCommand s nbits w

end Sys2Proof.Machine
end

