-- ==== Sys2Proof/Machine/HostProgram.lean ====
section
/-! DEFINITION. Machine/HostProgram.lean: the host programs of R76 and R77 (spec 30_encoding.md) as lists of host
actions. -/

namespace Sys2Proof.Machine

/-- R76: what a step writes and does, in the order the rule gives. -/
def stepActions (h : HostStep) : List HostAction :=
  match h with
  | .enc blk key => [.writeCmd (encode .encrypt), .writeBlk blk, .writeKey key, .start]
  | .dec blk key => [.writeCmd (encode .decrypt), .writeBlk blk, .writeKey key, .start]
  | .wait => [.wait]
  | .read name => [.read name]
  | .reset => [.reset]

/-- R77: the expansion of a line. -/
def lineSteps (l : HostLine) : List HostStep :=
  match l with
  | .step h => [h]
  | .encw name blk key => [.enc blk key, .wait, .read name]
  | .decw name blk key => [.dec blk key, .wait, .read name]

/-- The actions of a host program, in order. -/
def programActions (p : List HostLine) : List HostAction := (p.flatMap lineSteps).flatMap stepActions

/-- Actions with their windows; an action beyond the list of windows has none (log entry 5). -/
def schedule : List HostAction → List (Option Nat) → List HostEntry
  | [], _ => []
  | a :: as, [] => { action := a, window := none } :: schedule as []
  | a :: as, w :: ws => { action := a, window := w } :: schedule as ws

/-- A state whose host has the program still to do, under a schedule of windows. -/
def loadProgram (p : List HostLine) (ws : List (Option Nat)) (s : State) : State :=
  { s with host := schedule (programActions p) ws }

end Sys2Proof.Machine
end

