-- ==== Sys2Proof/Machine/HostSyntax.lean ====
section
/-! DEFINITION. Machine/HostSyntax.lean: the text of the host language (spec 30_encoding.md R76, R77) and its reader.
Where the rules leave the text open (names, blanks, a token that is both a name and hexadecimal) log entry 12 says what
the model takes. -/

namespace Sys2Proof.Machine

/-- Why a line is no step of the host language. -/
inductive SyntaxReject where
  /-- The first word is no step or pseudo-instruction, or its operands have not the form of R76, R77.  Safe. -/
  | badLine
  /-- R76: the digit count must be even.  Safe. -/
  | oddHexDigits
  /-- A `<blk>` or `<key>` that is neither hexadecimal digits nor, for `<blk>`, a name.  Safe. -/
  | badOperand
  /-- A `<name>` of the wrong form.  Safe. -/
  | badName
deriving DecidableEq, Repr

/-- The value of a hexadecimal digit, in either case (R76). -/
def hexValue (c : Char) : Nat :=
  if '0' ≤ c ∧ c ≤ '9' then c.toNat - '0'.toNat
  else if 'a' ≤ c ∧ c ≤ 'f' then c.toNat - 'a'.toNat + 10
  else c.toNat - 'A'.toNat + 10

/-- The bytes of an even number of hexadecimal digits, byte 0 first, the higher digit first (R76). -/
def hexBytes : List Char → List Byte
  | hi :: lo :: rest => BitVec.ofNat 8 (16 * hexValue hi + hexValue lo) :: hexBytes rest
  | _ => []

/-- A hexadecimal literal (R76). -/
def parseHex (tok : List Char) : Except SyntaxReject (List Byte) :=
  if hexLiteralOk tok then .ok (hexBytes tok)
  else if tok.all isHexDigit && tok.length % 2 == 1 then .error .oddHexDigits
  else .error .badOperand

/-- The hexadecimal digit of a value below 16, in upper case. -/
def hexDigit (n : Nat) : Char :=
  ['0', '1', '2', '3', '4', '5', '6', '7', '8', '9', 'A', 'B', 'C', 'D', 'E', 'F'].getD n '0'

/-- R76: bytes as hexadecimal digits, byte 0 first. -/
def printHex (bs : List Byte) : List Char :=
  bs.flatMap fun b => [hexDigit (b.toNat / 16), hexDigit (b.toNat % 16)]

/-- The ending `.out`. -/
def outSuffix : List Char := ['.', 'o', 'u', 't']

/-- A `<blk>` operand (R76): `<name>.out`; a name that an earlier line binds; else a literal. -/
def parseOperand (bound : List Name) (tok : List Char) : Except SyntaxReject Operand :=
  if outSuffix.isSuffixOf tok then
    let name := tok.take (tok.length - 4)
    if nameOk name then .ok (.out name) else .error .badName
  else if tok ∈ bound then .ok (.out tok)
  else
    match parseHex tok with
    | .ok bs => .ok (.bytes bs)
    | .error e => .error e

/-- A `<name>` to bind. -/
def parseName (tok : List Char) : Except SyntaxReject Name :=
  if nameOk tok then .ok tok else .error .badName

/-- The part of a line before its comment (R76: `;` starts a comment). -/
def stripComment (line : List Char) : List Char := line.takeWhile fun c => c != ';'

/-- A word, if there is one, before the words after it. -/
def pushWord (word : List Char) (words : List (List Char)) : List (List Char) :=
  if word.isEmpty then words else word :: words

/-- The words of a line; blanks separate words, and a comma is a word of its own.  `word` is the word being read. -/
def lineWords (word : List Char) : List Char → List (List Char)
  | [] => pushWord word []
  | c :: cs =>
    if c == ' ' || c == '\t' || c == '\r' then pushWord word (lineWords [] cs)
    else if c == ',' then pushWord word ([','] :: lineWords [] cs)
    else lineWords (word ++ [c]) cs

/-- The lines of a text.  `line` is the line being read. -/
def splitLines (line : List Char) : List Char → List (List Char)
  | [] => [line]
  | c :: cs => if c == '\n' then line :: splitLines [] cs else splitLines (line ++ [c]) cs

/-- The two operands of a command line, `<blk>, <key>`. -/
def parseOperands (bound : List Name) (blk key : List Char) : Except SyntaxReject (Operand × List Byte) :=
  match parseOperand bound blk, parseHex key with
  | .ok b, .ok k => .ok (b, k)
  | .error e, _ => .error e
  | _, .error e => .error e

/-- A line of ENC or DEC. -/
def parseCommandLine (bound : List Name) (mk : Operand → List Byte → HostStep) (args : List (List Char)) :
    Except SyntaxReject HostLine :=
  match args with
  | [blk, comma, key] =>
    if comma == [','] then
      match parseOperands bound blk key with
      | .ok p => .ok (.step (mk p.1 p.2))
      | .error e => .error e
    else .error .badLine
  | _ => .error .badLine

/-- A line of ENCW or DECW. -/
def parsePseudoLine (bound : List Name) (mk : Name → Operand → List Byte → HostLine) (args : List (List Char)) :
    Except SyntaxReject HostLine :=
  match args with
  | [name, comma, blk, comma2, key] =>
    if comma == [','] && comma2 == [','] then
      match parseName name, parseOperands bound blk key with
      | .ok n, .ok p => .ok (mk n p.1 p.2)
      | .error e, _ => .error e
      | _, .error e => .error e
    else .error .badLine
  | _ => .error .badLine

/-- A line of READ. -/
def parseReadLine (args : List (List Char)) : Except SyntaxReject HostLine :=
  match args with
  | [name] =>
    match parseName name with
    | .ok n => .ok (.step (.read n))
    | .error e => .error e
  | _ => .error .badLine

/-- A line of WAIT or RESET: no operands. -/
def parseBareLine (h : HostStep) (args : List (List Char)) : Except SyntaxReject HostLine :=
  match args with
  | [] => .ok (.step h)
  | _ => .error .badLine

/-- A line that begins with the word `w` (R76, R77). -/
def parseLine (bound : List Name) (w : List Char) (args : List (List Char)) : Except SyntaxReject HostLine :=
  if w = ['E', 'N', 'C'] then parseCommandLine bound .enc args
  else if w = ['D', 'E', 'C'] then parseCommandLine bound .dec args
  else if w = ['W', 'A', 'I', 'T'] then parseBareLine .wait args
  else if w = ['R', 'E', 'A', 'D'] then parseReadLine args
  else if w = ['R', 'E', 'S', 'E', 'T'] then parseBareLine .reset args
  else if w = ['E', 'N', 'C', 'W'] then parsePseudoLine bound .encw args
  else if w = ['D', 'E', 'C', 'W'] then parsePseudoLine bound .decw args
  else .error .badLine

/-- The names a line binds. -/
def lineBinds (l : HostLine) : List Name :=
  match l with
  | .step (.read name) => [name]
  | .encw name _ _ => [name]
  | .decw name _ _ => [name]
  | _ => []

/-- Lines in order; a line without a word is skipped. -/
def parseLines (bound : List Name) : List (List Char) → Except SyntaxReject (List HostLine)
  | [] => .ok []
  | line :: lines =>
    match lineWords [] (stripComment line) with
    | [] => parseLines bound lines
    | w :: args =>
      match parseLine bound w args with
      | .error e => .error e
      | .ok l =>
        match parseLines (lineBinds l ++ bound) lines with
        | .ok ls => .ok (l :: ls)
        | .error e => .error e

/-- The host program a text is. -/
def parseProgram (text : List Char) : Except SyntaxReject (List HostLine) := parseLines [] (splitLines [] text)

end Sys2Proof.Machine
end

