-- ==== Sys2Proof/Safety.lean ====
section
/-! DEFINITION. Safety.lean: the words the claims use: a state the interface rules allow, the end of a run, and a run
of commands. -/

namespace Sys2Proof.Machine

/-- What R29, R30 and R33 say of every state: one of the five STATUS values; `STATUS = 0b0001` exactly while a command
runs, then with no result and with `OPR` the phase's operation; `BLK_OUT` valid exactly when DONE = 1 and ERR = 0. -/
def State.consistent (s : State) : Bool :=
  match s.ph with
  | .idle =>
    legalStatus s.status && !statusBusy s.status && (s.blkOut.isSome == resultValid s.status)
  | .runEnc => s.status == 0b0001 && s.blkOut.isNone && s.opr == encode .encrypt
  | .runDec => s.status == 0b0001 && s.blkOut.isNone && s.opr == encode .decrypt

/-- R201: the state does not report CorruptTableError. -/
def State.noCorruptTable (s : State) : Prop := statusErr s.status ≠ errCode .corruptTable

/-- R230, R241: as long as the host has not written all three operand registers since reset, no command has been
accepted: the engine is idle, with the STATUS of reset and no result. -/
def State.blankUntilWritten (s : State) : Prop :=
  operandsWritten s = false → s.ph = .idle ∧ s.status = 0b0000 ∧ s.blkOut = none

/-- R249: the host has done its last step and its last command has completed. -/
def State.ended (s : State) : Bool := s.host.isEmpty && s.ph == .idle

/-- Both states are the same to the host (R35): the same STATUS and the same result. -/
def sameView (s s' : State) : Prop := s.status = s'.status ∧ s.blkOut = s'.blkOut

/-- What no command and no move of the engine writes: the operand registers, the host's marks of having written
them, the record of R241, and the host's own side (R25 to R28, R34, R76). -/
def sameHostSide (s s' : State) : Prop :=
  s'.cmd = s.cmd ∧ s'.blkIn = s.blkIn ∧ s'.keyIn = s.keyIn ∧
  s'.cmdWritten = s.cmdWritten ∧ s'.blkWritten = s.blkWritten ∧ s'.keyWritten = s.keyWritten ∧
  s'.host = s.host ∧ s'.reads = s.reads ∧ s'.window = s.window ∧ s'.startFault = s.startFault

/-- What the engine holds: its result and STATUS, and its internal state (R29, R30, R32, R33). -/
def sameEngine (s s' : State) : Prop :=
  s'.blkOut = s.blkOut ∧ s'.status = s.status ∧ s'.work = s.work ∧ s'.ph = s.ph ∧ s'.rc = s.rc ∧
  s'.kr = s.kr ∧ s'.opr = s.opr

/-- The bits of a byte, bit 7 first (R15). -/
def bitsMsbFirst (b : Byte) : List Bool :=
  [b.getLsbD 7, b.getLsbD 6, b.getLsbD 5, b.getLsbD 4, b.getLsbD 3, b.getLsbD 2, b.getLsbD 1, b.getLsbD 0]

end Sys2Proof.Machine
end

