-- ==== Sys2Proof/Certificates/Slice0/Obligations.lean ====
section
/-! DEFINITION. Certificates/Slice0/Obligations.lean: the statements for the provers, from the numbered rules of spec/.
`Config.tables` is opaque, so a statement about it holds for every admitted table and every mask. -/

open Sys2Proof Sys2Proof.Machine

/-! ### Encoding and ports -/

/-- R70, R71: a command is read from bit 0 alone, 0 ENCRYPT and 1 DECRYPT.  That no bits are no command is the model's
reading, log entry 19. -/
def Obligations.CommandWordDecodes : Prop :=
  (∀ n w : Nat, decodeTableWord (n + 1) w = some (if w.testBit 0 then .decrypt else .encrypt)) ∧
  (∀ w : Nat, decodeTableWord 0 w = none) ∧
  decodeCmd 0#1 = .encrypt ∧ decodeCmd 1#1 = .decrypt ∧ ∀ i : Instr, decodeCmd (encode i) = i

/-- R52: byte i of a block stands at bits `[127-8i : 120-8i]` of its port word, and back. -/
def Obligations.PortWordBytePlacement : Prop :=
  (∀ (B : Block) (i : Fin 16), (packBlock B).extractLsb' (120 - 8 * i.val) 8 = B[i]) ∧
  (∀ (W : PortWord) (i : Fin 16), (unpackBlock W)[i] = W.extractLsb' (120 - 8 * i.val) 8)

/-- R70, R72, R73: every well-formed command survives encoding and decoding, with its operands at every value; every
port content is the encoding of the well-formed command it decodes to; a command with a wrong length has no
encoding. -/
def Obligations.DecodeEncodeCommand : Prop :=
  (∀ c : Command, c.wellFormed = true → ∃ p, encodeCommand c = some p ∧ decodeCommand p = c) ∧
  (∀ p : PortWords, (decodeCommand p).wellFormed = true ∧ encodeCommand (decodeCommand p) = some p) ∧
  (∀ c : Command, c.wellFormed = false → encodeCommand c = none)

/-- R28, R37, R71: START with the engine idle and the operands written runs the command in `CMD`, at the state whose
host has gone on past START. -/
def Obligations.StepRunsIssuedCommand : Prop :=
  ∀ (s : State) (w : Option Nat) (rest : List HostEntry),
    s.host = { action := .start, window := w } :: rest → s.ph = .idle → operandsWritten s = true →
    step s = exec (decodeCmd s.cmd) (nextAction rest w s)

/-- R70, R71: a command word placed for the next step is what that step runs.  How a word is placed is the model's
choice, log entry 18. -/
def Obligations.StepRunsFetchedWord : Prop :=
  ∀ (s : State) (nbits w : Nat) (i : Instr), decodeTableWord nbits w = some i →
    step (s.withFetchWord nbits w) = exec i (nextAction s.host none (s.withFetchWord nbits w))

/-! ### Substitution -/

/-- R21: `INV_SBOX[b]` is the least preimage, NONE exactly where there is none; with an admitted table it is the one
preimage. -/
def Obligations.InvSboxIsLeastPreimage : Prop :=
  ∀ (t : Tables) (b : Byte),
    (∀ k : Byte, invSbox t b = some k ↔ t.sbox k = b ∧ ∀ j : Byte, j < k → t.sbox j ≠ b) ∧
    (invSbox t b = none ↔ ∀ k : Byte, t.sbox k ≠ b) ∧
    (t.admitted = true → ∃ k, invSbox t b = some k ∧ ∀ j : Byte, t.sbox j = b ↔ j = k)

/-- R102: a configuration is admitted exactly if no two entries of `SBOX` are equal, which makes it a bijection; the
check at building refuses every other. -/
def Obligations.AdmittedIffPermutation : Prop :=
  ∀ t : Tables,
    (t.admitted = true ↔ ∀ k1 k2 : Byte, k1 ≠ k2 → t.sbox k1 ≠ t.sbox k2) ∧
    (t.admitted = true ↔ Function.Bijective t.sbox) ∧
    (t.admitted = true → ∃ a : AdmittedTables, t.build = .ok a ∧ a.tables = t) ∧
    (t.admitted = false → t.build = .error .sboxNotBijective)

/-- R233 and log entry 1: the hardware's tables, whatever they are, are an admitted configuration. -/
def Obligations.HardwareTablesAdmitted : Prop := Config.tables.admitted = true

/-- R103: the inverse law of the two lookups, and that neither raises. -/
def Obligations.SubstitutionInverseLaw : Prop :=
  ∀ (t : Tables) (b : Byte), t.admitted = true →
    invSubByte t (subByte t b) = .ok b ∧ ∃ k, invSubByte t b = .ok k ∧ subByte t k = b

/-- R104: with an admitted table, any lookup that finds a preimage of every byte is `INV_SBOX`. -/
def Obligations.LookupImplementationsAgree : Prop :=
  ∀ (t : Tables) (impl : Byte → Option Byte), t.admitted = true →
    (∀ b k : Byte, impl b = some k → t.sbox k = b) → (∀ b : Byte, (impl b).isSome = true) →
    ∀ b : Byte, impl b = invSbox t b

/-! ### Byte permutation -/

/-- R120 to R124: where each output byte of the five operations comes from. -/
def Obligations.BytePermutationSources : Prop :=
  ∀ (B : Block) (i : Fin 16),
    (colRot B)[i] = B[(i.val + 8) % 16] ∧
    (colRotInv B)[(i.val + 8) % 16] = B[i] ∧ colRotInv B = colRot B ∧
    (fixedSwap B)[i] = B[([6, 7, 4, 10, 2, 12, 0, 1, 14, 15, 3, 13, 5, 11, 8, 9] : List (Fin 16))[i]] ∧
    (∀ p ∈ swapPairs, (fixedSwap B)[p.1] = B[p.2] ∧ (fixedSwap B)[p.2] = B[p.1]) ∧
    (rowRot B)[i] = B[4 * (i.val / 4) + (i.val % 4 + 2) % 4] ∧
    (rowRotInv B)[4 * (i.val / 4) + (i.val % 4 + 2) % 4] = B[i] ∧ rowRotInv B = rowRot B

/-- R126: the inverse laws of the byte permutations. -/
def Obligations.BytePermutationInverses : Prop :=
  ∀ B : Block,
    colRot (colRot B) = B ∧ fixedSwap (fixedSwap B) = B ∧ rowRotInv (rowRot B) = B ∧ rowRot (rowRotInv B) = B

/-- R10: the swap pairs, in the source's order, and that they name every index 0..15 exactly once. -/
def Obligations.SwapPairsCoverBlock : Prop :=
  swapPairs = [(0, 6), (3, 10), (5, 12), (9, 15), (1, 7), (2, 4), (8, 14), (11, 13)] ∧
  (swapPairs.flatMap fun p => [p.1, p.2]).Nodup ∧ ∀ i : Fin 16, ∃ p ∈ swapPairs, p.1 = i ∨ p.2 = i

/-! ### Bit mixing -/

/-- R140, R141: `PAIR_MIX` and `PAIR_UNMIX` bit by bit. -/
def Obligations.PairMixBits : Prop :=
  ∀ x y : Byte,
    bitsMsbFirst (pairMix x y).1 =
      [x.getLsbD 5, y.getLsbD 5, x.getLsbD 4, y.getLsbD 4, x.getLsbD 3, y.getLsbD 3, x.getLsbD 2, y.getLsbD 2] ∧
    bitsMsbFirst (pairMix x y).2 =
      [x.getLsbD 1, y.getLsbD 1, x.getLsbD 0, y.getLsbD 0, x.getLsbD 7, y.getLsbD 7, x.getLsbD 6, y.getLsbD 6] ∧
    bitsMsbFirst (pairUnmix x y).1 =
      [y.getLsbD 3, y.getLsbD 1, x.getLsbD 7, x.getLsbD 5, x.getLsbD 3, x.getLsbD 1, y.getLsbD 7, y.getLsbD 5] ∧
    bitsMsbFirst (pairUnmix x y).2 =
      [y.getLsbD 2, y.getLsbD 0, x.getLsbD 6, x.getLsbD 4, x.getLsbD 2, x.getLsbD 0, y.getLsbD 6, y.getLsbD 4]

/-- R144: the inverse laws of the pair and of the block mix. -/
def Obligations.MixInverses : Prop :=
  (∀ u l : Byte,
    pairUnmix (pairMix u l).1 (pairMix u l).2 = (u, l) ∧ pairMix (pairUnmix u l).1 (pairUnmix u l).2 = (u, l)) ∧
  (∀ B : Block, blockUnmix (blockMix B) = B ∧ blockMix (blockUnmix B) = B)

/-- R145: the unmix steps run upward on `BLOCK_MIX(00 01 ... 0F)` give the rule's counterexample, not the input. -/
def Obligations.UnmixUpwardIsWrong : Prop :=
  chainUp.foldl (pairStep pairUnmix) (blockMix blockI) =
    #v[0x01, 0x00, 0x01, 0x00, 0x91, 0x90, 0x11, 0x30, 0xA1, 0xA0, 0x21, 0x20, 0xB1, 0xB0, 0x70, 0x23] ∧
  chainUp.foldl (pairStep pairUnmix) (blockMix blockI) ≠ blockI

/-- R142: the chain runs left to right: the output bytes below j depend on the input bytes up to j only, so that a
difference confined to byte 15 reaches bytes 14 and 15 alone; and the all-zero and all-0xFF blocks are fixed. -/
def Obligations.BlockMixRunsLeftToRight : Prop :=
  (∀ (B B' : Block) (j : Fin 16), (∀ i : Fin 16, i ≤ j → B[i] = B'[i]) →
    ∀ i : Fin 16, i < j → (blockMix B)[i] = (blockMix B')[i]) ∧
  blockMix Block.zero = Block.zero ∧ blockMix (Vector.replicate 16 0xFF) = Vector.replicate 16 0xFF

/-! ### Rounds -/

/-- R160, R161, R162: byte i of the key XOR, the mask XOR and the substitution comes from byte i of the operands; the
two XORs undo themselves. -/
def Obligations.XorAndSubstituteByteByByte : Prop :=
  ∀ (t : Tables) (B K : Block),
    (∀ i : Fin 16, (keyXor B K)[i] = B[i] ^^^ K[i] ∧ (maskXor t B)[i] = B[i] ^^^ t.mask[i] ∧
      (subBlock t B)[i] = t.sbox B[i]) ∧
    keyXor (keyXor B K) K = B ∧ keyXor B Block.zero = B ∧ maskXor t (maskXor t B) = B

/-- R163: `INVSUB_BLOCK` raises CorruptTableError exactly if some byte has no preimage, and else inverse-substitutes
every byte; with an admitted table it undoes `SUB_BLOCK`. -/
def Obligations.InvSubBlockLaw : Prop :=
  ∀ (t : Tables) (B : Block),
    ((∃ i : Fin 16, ∀ k : Byte, t.sbox k ≠ B[i]) → invSubBlock t B = .error .corruptTable) ∧
    ((∀ i : Fin 16, ∃ k : Byte, t.sbox k = B[i]) →
      ∃ T : Block, invSubBlock t B = .ok T ∧ ∀ i : Fin 16, invSubByte t B[i] = .ok T[i]) ∧
    (t.admitted = true → invSubBlock t (subBlock t B) = .ok B)

/-- R168: the inverse laws of the pipelines, for every mask, and of the round, for an admitted table. -/
def Obligations.RoundInverses : Prop :=
  ∀ (t : Tables) (B K : Block),
    invPipe t (fwdPipe t B) = B ∧ fwdPipe t (invPipe t B) = B ∧
    (t.admitted = true → decRound t (encRound t B K) K = .ok B)

/-! ### The cipher -/

/-- R183: decryption undoes encryption and encryption undoes decryption, for every block and key. -/
def Obligations.CipherRoundTrip : Prop :=
  ∀ (t : Tables) (B K : Block), t.admitted = true →
    decryptBlock t (encryptBlock t B K) K = .ok B ∧
    ∃ P : Block, decryptBlock t B K = .ok P ∧ encryptBlock t P K = B

/-- R185: decrypting a ciphertext passes through the encryption's round values in reverse: `D_r = E_{16-r}`. -/
def Obligations.RoundValuesMirrored : Prop :=
  ∀ (t : Tables) (B K : Block) (r : Nat), t.admitted = true → r ≤ 16 →
    decRounds t (encryptBlock t B K) K r = .ok (encRounds t B K (16 - r))

/-- R184: both commands are the rule's 145 datapath steps in order, and step n of DECRYPT's list is the inverse of
step 146 - n of ENCRYPT's. -/
def Obligations.FlatMicroSequence : Prop :=
  encryptOps.length = 145 ∧ decryptOps.length = 145 ∧
  (∀ (t : Tables) (B K : Block), microRun t K encryptOps B = .ok (encryptBlock t B K)) ∧
  (∀ (t : Tables) (C K : Block), microRun t K decryptOps C = decryptBlock t C K) ∧
  (∀ n : Nat, 1 ≤ n → n ≤ 145 → decryptOps[n - 1]? = (encryptOps[146 - n - 1]?).map inverseOp) ∧
  (∀ (t : Tables) (K S T : Block) (op : MicroOp), t.admitted = true → microStep t K op S = .ok T →
    microStep t K (inverseOp op) T = .ok S)

/-- R181: 17 key XORs in each command; R164, R165 (C2): the mask once a round. -/
def Obligations.KeyXorCount : Prop :=
  encryptOps.count .keyXor = 17 ∧ decryptOps.count .keyXor = 17 ∧
  encryptOps.count .maskXor = 16 ∧ decryptOps.count .maskXor = 16

/-- R188: key sensitivity is no law: under T0 two keys encrypt every block alike. -/
def Obligations.KeySensitivityFailsUnderT0 : Prop :=
  ∀ B : Block,
    encryptBlock tablesT0 B #v[0, 0, 4, 0, 2, 0, 0, 0, 0, 0, 0, 0, 0, 0, 0, 0] = encryptBlock tablesT0 B Block.zero

/-! ### The commands -/

/-- R180 with R37 and R38: from an idle engine with 16-byte operands and nothing landing before the end, ENCRYPT
answers the state with `BLK_OUT` = `ENCRYPT(B, K)`, STATUS `0b0010` and the latches as the rules leave them;
everything else is as before.  The window that says when the host's next action lands is the model's form of
LATENCY, log entry 5. -/
def Obligations.EncryptCompletes : Prop :=
  ∀ (s : State) (b k : Block),
    s.ph = .idle → s.blkIn = b.toList → s.keyIn = k.toList →
    (s.window = none ∨ ∃ n, s.window = some n ∧ 17 ≤ n) →
    exec .encrypt s = .next
      { s with
        opr := 0, status := 0b0010, blkOut := some (encryptBlock Config.tables b k)
        work := encryptBlock Config.tables b k, kr := k, rc := 16, ph := .idle }

/-- R182 with R37 and R38: likewise for DECRYPT, which at the hardware's admitted tables never raises (window:
log entry 5). -/
def Obligations.DecryptCompletes : Prop :=
  ∀ (s : State) (c k : Block),
    s.ph = .idle → s.blkIn = c.toList → s.keyIn = k.toList →
    (s.window = none ∨ ∃ n, s.window = some n ∧ 17 ≤ n) →
    ∃ P : Block, decryptBlock Config.tables c k = .ok P ∧
      exec .decrypt s = .next
        { s with
          opr := 1, status := 0b0010, blkOut := some P
          work := P, kr := k, rc := 16, ph := .idle }

/-- R185, R186, R242: where the host's next action lands after r moves, r up to 16, ENCRYPT is running with `RC` = r,
`S` = `E_r`, the key in `KR`, STATUS `0b0001` and no result.  That a move is one round is the model's choice, log
entries 5 and 6. -/
def Obligations.EncryptAtRoundBoundary : Prop :=
  ∀ (s : State) (b k : Block) (r : Fin 17),
    s.ph = .idle → s.blkIn = b.toList → s.keyIn = k.toList → s.window = some r.val →
    exec .encrypt s = .next
      { s with
        opr := 0, status := 0b0001, blkOut := none
        work := encRounds Config.tables b k r.val, kr := k, rc := r, ph := .runEnc }

/-- R185, R186, R242: likewise for DECRYPT; `S` is the input at acceptance (R37) and `D_r` after round r = 1..16
(that the first key XOR belongs to round 1's move: log entry 6). -/
def Obligations.DecryptAtRoundBoundary : Prop :=
  ∀ (s : State) (c k : Block) (r : Fin 17),
    s.ph = .idle → s.blkIn = c.toList → s.keyIn = k.toList → s.window = some r.val →
    ∃ D : Block, decRounds Config.tables c k r.val = .ok D ∧
      exec .decrypt s = .next
        { s with
          opr := 1, status := 0b0001, blkOut := none
          work := if r.val = 0 then c else D, kr := k, rc := r, ph := .runDec }

/-- R200 with R37 and R204: an operand of any other length makes either command end at acceptance with
InvalidBlockSizeError: STATUS `0b0110`, no result, `OPR` latched, and nothing else changed (the
latches after an error: log entry 14). -/
def Obligations.WrongLengthTakesError : Prop :=
  ∀ (i : Instr) (s : State), s.ph = .idle → (s.blkIn.length ≠ 16 ∨ s.keyIn.length ≠ 16) →
    exec i s = .next { s with opr := encode i, status := 0b0110, blkOut := none }

/-- R201, R203, R204: over any tables, where the inverse substitution of a DECRYPT's round r + 1 is the first to find no
preimage, the command is still running while the window ends before that round, and under every window that reaches
it (or none) it ends with CorruptTableError: STATUS `0b1010`, no result, idle, the host's side untouched; whenever
`DECRYPT` raises there is such a round; and no ENCRYPT ever reports the error.  Windows, and one round a move: log
entries 5, 6. -/
def Obligations.CorruptTableAborts : Prop :=
  (∀ (t : Tables) (s : State) (c k D : Block) (e : EngineError) (r : Nat),
    s.ph = .idle → s.blkIn = c.toList → s.keyIn = k.toList →
    r < 16 → decRounds t c k r = .ok D → decRounds t c k (r + 1) = .error e →
    e = .corruptTable ∧
    ∃ s' : State, decryptIn t s = .next s' ∧ sameHostSide s s' ∧ s'.blkOut = none ∧
      (s.window = none ∨ (∃ n, s.window = some n ∧ r < n) → s'.status = 0b1010 ∧ s'.ph = .idle) ∧
      (∀ n, s.window = some n → n ≤ r → s'.status = 0b0001 ∧ s'.ph = .runDec)) ∧
  (∀ (t : Tables) (c k : Block) (e : EngineError), decryptBlock t c k = .error e →
    ∃ (r : Nat) (D : Block), r < 16 ∧ decRounds t c k r = .ok D ∧ decRounds t c k (r + 1) = .error e) ∧
  (∀ (t : Tables) (s s' : State), encryptIn t s = .next s' → s'.noCorruptTable)

/-- R202, R240: a command never faults; it answers a next state exactly where the engine is idle and is refused by
name where one runs (that exec refuses and step holds: log entry 8). -/
def Obligations.CommandAcceptedIffIdle : Prop :=
  ∀ (i : Instr) (s : State),
    ((∃ s', exec i s = .next s') ↔ s.ph = .idle) ∧ (exec i s = .refused .startWhileBusy ↔ s.ph ≠ .idle)

/-- R34, R204: the frame of both commands, completing, erring or still running: the operand registers, the marks of
having written them, the record of R241 (log entry 4) and the host's side are unchanged; and once the operands are accepted `KR` holds the key. -/
def Obligations.CommandFrame : Prop :=
  ∀ (i : Instr) (s s' : State), exec i s = .next s' →
    sameHostSide s s' ∧ s'.opr = encode i ∧
    (s.blkIn.length = 16 → s.keyIn.length = 16 → s'.kr.toList = s.keyIn)

/-- R34, R187: what a command ends with in `STATUS` and `BLK_OUT` depends on the operation and the operands alone: two
idle engines that hold the same operands and differ in everything else, an earlier command's result or error and the
window among it, end alike once both commands have run out; and where the windows are the same too (log entry 5),
`STATUS`, `BLK_OUT` and the phase are alike as soon as exec answers. -/
def Obligations.ResultDependsOnOperandsOnly : Prop :=
  ∀ (i : Instr) (s₁ s₂ s₁' s₂' : State),
    s₁.ph = .idle → s₂.ph = .idle → s₁.blkIn = s₂.blkIn → s₁.keyIn = s₂.keyIn →
    exec i s₁ = .next s₁' → exec i s₂ = .next s₂' →
    ((advanceN Config.tables 17 s₁').ph = .idle ∧ (advanceN Config.tables 17 s₂').ph = .idle ∧
      sameView (advanceN Config.tables 17 s₁') (advanceN Config.tables 17 s₂')) ∧
    (s₁.window = s₂.window → sameView s₁' s₂' ∧ s₁'.ph = s₂'.ph)

/-- R14, R187: a command's result does not depend on how far it is when the host's next action lands: run on from
there, it ends with the view it would have had uninterrupted.  When that action lands is a window, and 17 moves end
any command: log entries 5, 6. -/
def Obligations.ResultIndependentOfLatency : Prop :=
  ∀ (i : Instr) (s s₁ s₂ : State) (n : Nat),
    exec i { s with window := some n } = .next s₁ → exec i { s with window := none } = .next s₂ →
    sameView (advanceN Config.tables 17 s₁) s₂ ∧ (advanceN Config.tables 17 s₁).ph = .idle

/-- R183 at the interface: encrypting, writing the result back to `BLK_IN` and decrypting under the same key gives
the block back in `BLK_OUT`, with STATUS `0b0010` both times, where the window lets each command complete (log entry
5). -/
def Obligations.InterfaceRoundTrip : Prop :=
  ∀ (s : State) (b k : Block),
    s.ph = .idle → s.blkIn = b.toList → s.keyIn = k.toList →
    (s.window = none ∨ ∃ n, s.window = some n ∧ 17 ≤ n) →
    ∃ (s₁ s₂ : State) (c : Block),
      exec .encrypt s = .next s₁ ∧ s₁.status = 0b0010 ∧ s₁.blkOut = some c ∧
      exec .decrypt (writeBlk c.toList s₁) = .next s₂ ∧ s₂.status = 0b0010 ∧ s₂.blkOut = some b

/-! ### Reset and invariants -/

/-- R36: what the rule gives for reset, the invariants hold there, and R241: no operand register is written. -/
def Obligations.ResetValues : Prop :=
  State.reset.ph = .idle ∧ State.reset.status = 0b0000 ∧ State.reset.blkOut = none ∧
  State.reset.consistent = true ∧ State.reset.noCorruptTable ∧ State.reset.blankUntilWritten ∧
  operandsWritten State.reset = false

/-- R230, R231: reset at any time, a running command included, gives an idle engine with STATUS `0b0000` and no
result, and none of `CMD`, `BLK_IN` and `KEY_IN` written (R241, marks: log entry 4); so the host can't tell an abandoned command from none.
That the host's remaining actions, its readings and the record of R241 stay is the model's choice, log entries 9, 4. -/
def Obligations.ResetAbandonsCommand : Prop :=
  ∀ (s : State) (w : Option Nat) (rest : List HostEntry),
    s.host = { action := .reset, window := w } :: rest →
    ∃ s' : State, step s = .next s' ∧ s'.ph = .idle ∧ s'.status = 0b0000 ∧ s'.blkOut = none ∧
      s'.cmdWritten = false ∧ s'.blkWritten = false ∧ s'.keyWritten = false ∧ s'.host = rest ∧ s'.reads = s.reads ∧
      s'.startFault = s.startFault ∧ sameView s' { State.reset with host := rest }

/-- R29, R30, R33: every step keeps the interface rules: one of the five STATUS values, BUSY exactly while a command
runs, `BLK_OUT` valid exactly when DONE = 1 and ERR = 0, `OPR` the phase's operation. -/
def Obligations.StepKeepsConsistent : Prop :=
  ∀ s s' : State, s.consistent = true → step s = .next s' → s'.consistent = true

/-- R182, R201: with the hardware's admitted tables no step comes to report CorruptTableError. -/
def Obligations.StepNeverCorruptTable : Prop :=
  ∀ s s' : State, s.noCorruptTable → step s = .next s' → s'.noCorruptTable

/-! ### The host protocol -/

/-- R240: while a command runs the host's START is held: the engine moves, and START is still the next action; it is
reached with the engine idle within 17 steps, and is then taken up as at any idle engine: it runs, or, the operands not
written, is the fault of R241.  Holding, 17 moves a command, and the record of the fault are the model's choices, log
entries 8, 6 and 4. -/
def Obligations.StartHeldWhileBusy : Prop :=
  ∀ (s : State) (w : Option Nat) (rest : List HostEntry),
    s.ph ≠ .idle → s.host = { action := .start, window := w } :: rest →
    step s = .next (advance Config.tables s) ∧
    ∃ (n : Nat) (s' : State), n ≤ 17 ∧ Host.Core.run Sys2Proof.core n s = .next s' ∧ s'.ph = .idle ∧
      s'.host = s.host ∧
      (operandsWritten s = true → step s' = exec (decodeCmd s.cmd) (nextAction rest w s')) ∧
      (operandsWritten s = false →
        step s' = .next { s' with host := rest, window := w, startFault := true })

/-- R241: START with the engine idle and `CMD`, `BLK_IN` and `KEY_IN` not all written since reset is a fault, which the
model records, and never a value: no command is accepted, nothing but the record and the host's going on changes, and
from a state that no command has reached since reset there is no result after it.  That the host goes on, past a START
without effect, is the model's choice, log entry 4. -/
def Obligations.StartBeforeOperandsRecorded : Prop :=
  ∀ (s : State) (w : Option Nat) (rest : List HostEntry),
    s.ph = .idle → s.host = { action := .start, window := w } :: rest →
    (s.cmdWritten = false ∨ s.blkWritten = false ∨ s.keyWritten = false) →
    ∃ s' : State, step s = .next s' ∧ s' = { s with host := rest, window := w, startFault := true } ∧
      sameEngine s s' ∧ (s.blankUntilWritten → s'.ph = .idle ∧ s'.status = 0b0000 ∧ s'.blkOut = none)

/-- R230, R241: every step keeps it that no command has been accepted, and no result or error is shown, as long as the
host has not written all three operand registers since reset; so a START before that never comes to a value. -/
def Obligations.StepKeepsBlankUntilWritten : Prop :=
  ∀ s s' : State, s.blankUntilWritten → step s = .next s' → s'.blankUntilWritten

/-- R76, R233, R241: no run of a host program, from any state and under any windows, ever records the fault of R241,
because each of its steps that issues START writes the three operand registers before it (the record: log entry 4). -/
def Obligations.HostProgramsWriteBeforeStart : Prop :=
  ∀ (p : List HostLine) (ws : List (Option Nat)) (s : State) (n : Nat) (s' : State),
    Host.Core.run Sys2Proof.core n (loadProgram p ws s) = .next s' → s'.startFault = s.startFault

/-- R76, R242, R248: the host's WAIT ends where a command runs or has completed: within 17 steps, and in its first step
where no command runs any more, DONE = 1 is read, and until then every poll reads `0b0001`.  With no command since
reset there is nothing to end it, and it polls on.  A poll a step, and 17 moves a command, are the model's choices,
log entries 7 and 6. -/
def Obligations.WaitEnds : Prop :=
  ∀ (s : State) (w : Option Nat) (rest : List HostEntry),
    s.consistent = true → s.host = { action := .wait, window := w } :: rest →
    (s.ph ≠ .idle ∨ statusDone s.status = true →
      ∃ (n : Nat) (s' s'' : State), n ≤ 17 ∧ (s.ph = .idle → n = 0) ∧
        Host.Core.run Sys2Proof.core n s = .next s' ∧ s'.ph = .idle ∧
        statusDone s'.status = true ∧ step s' = .next s'' ∧ s''.host = rest ∧ sameView s' s'' ∧
        ∀ (m : Nat) (sm : State), m < n → Host.Core.run Sys2Proof.core m s = .next sm → sm.status = 0b0001) ∧
    (s.ph = .idle → statusDone s.status = false → step s = .next s)

/-- R248: every accepted command completes after finitely many engine steps: 17 moves (log entry 6), over any tables;
R249: with nothing left for the host to do, the run then has ended. -/
def Obligations.EveryCommandCompletes : Prop :=
  (∀ (t : Tables) (s : State), (advanceN t 17 s).ph = .idle) ∧
  (∀ s : State, s.host = [] → ∃ s', Host.Core.run Sys2Proof.core 17 s = .next s' ∧ s'.ended = true)

/-- R243: a read of `BLK_OUT` is a fault whenever no command has completed with a result since the last acceptance
or reset; R29: otherwise it reads the result, which the model's lone read binds to a name (log entry 11). -/
def Obligations.InvalidResultReadFaults : Prop :=
  ∀ (s : State) (name : Name) (w : Option Nat) (rest : List HostEntry),
    s.consistent = true → s.host = { action := .readOut name, window := w } :: rest →
    (s.ph ≠ .idle ∨ statusDone s.status = false ∨ statusErr s.status ≠ errNone →
      step s = .fault .readInvalidResult) ∧
    (statusDone s.status = true → statusErr s.status = errNone →
      ∃ (s' : State) (b : Block), s.blkOut = some b ∧ step s = .next s' ∧ boundOut name s'.reads = some b)

/-- R30: a read of STATUS alone gives the host the value `STATUS` holds, while a command runs and at any other time; the
model binds it to a name, with no result (log entry 11). -/
def Obligations.StatusReadGivesStatus : Prop :=
  ∀ (s : State) (name : Name) (w : Option Nat) (rest : List HostEntry),
    s.consistent = true → s.host = { action := .readStatus name, window := w } :: rest →
    ∃ s' : State, step s = .next s' ∧ s'.host = rest ∧
      s'.reads = { name := name, status := some s.status, out := none } :: s.reads ∧
      findReading name s'.reads = some { name := name, status := some s.status, out := none } ∧
      (s.ph ≠ .idle → s.status = 0b0001)

/-- R244: writing `CMD`, `BLK_IN` (bytes, or a bound result) or `KEY_IN`, while a command runs or at any time, leaves the
engine exactly as the same moves without the write; the register holds what was written and counts as written, and the
other two operand registers, their marks and what the host has read stay.  That a register counts as written is the
mark of R241 (log entry 4), the moves are the window's (log entry 5), and a bound result is what R76 says (log entry
11). -/
def Obligations.OperandWritesDoNotReachCommand : Prop :=
  ∀ (s : State) (w : Option Nat) (rest : List HostEntry),
    (∀ op : BitVec 1, s.host = { action := .writeCmd op, window := w } :: rest →
      ∃ s' : State, step s = .next s' ∧ sameEngine (runWindow Config.tables (nextAction rest w s)) s' ∧
        s'.cmd = op ∧ s'.cmdWritten = true ∧
        s'.blkIn = s.blkIn ∧ s'.keyIn = s.keyIn ∧ s'.blkWritten = s.blkWritten ∧ s'.keyWritten = s.keyWritten ∧
        s'.host = rest ∧ s'.reads = s.reads ∧ s'.startFault = s.startFault) ∧
    (∀ (o : Operand) (bs : List Byte), operandBytes o s.reads = some bs →
      s.host = { action := .writeBlk o, window := w } :: rest →
      ∃ s' : State, step s = .next s' ∧ sameEngine (runWindow Config.tables (nextAction rest w s)) s' ∧
        s'.blkIn = bs ∧ s'.blkWritten = true ∧
        s'.cmd = s.cmd ∧ s'.keyIn = s.keyIn ∧ s'.cmdWritten = s.cmdWritten ∧ s'.keyWritten = s.keyWritten ∧
        s'.host = rest ∧ s'.reads = s.reads ∧ s'.startFault = s.startFault) ∧
    (∀ bs : List Byte, s.host = { action := .writeKey bs, window := w } :: rest →
      ∃ s' : State, step s = .next s' ∧ sameEngine (runWindow Config.tables (nextAction rest w s)) s' ∧
        s'.keyIn = bs ∧ s'.keyWritten = true ∧
        s'.cmd = s.cmd ∧ s'.blkIn = s.blkIn ∧ s'.cmdWritten = s.cmdWritten ∧ s'.blkWritten = s.blkWritten ∧
        s'.host = rest ∧ s'.reads = s.reads ∧ s'.startFault = s.startFault)

/-- R245: with the engine idle, no action of the host but START and reset changes `STATUS` or `BLK_OUT`, or anything
else of the engine. -/
def Obligations.ResultPersists : Prop :=
  ∀ s s' : State, s.ph = .idle →
    (∀ e rest, s.host = e :: rest → e.action ≠ .start ∧ e.action ≠ .reset) →
    step s = .next s' → sameEngine s s'

/-- R57: a read of STATUS or `BLK_OUT`, and READ, changes nothing but what the host has read: the engine goes on as it
would without it, and the operand registers stay.  What it has read is one new reading, of `STATUS` where STATUS was
read and of `BLK_OUT` where that was read and nothing else (that a read binds a name: R76, log entry 11). -/
def Obligations.ReadsHaveNoSideEffect : Prop :=
  ∀ (s s' : State) (name : Name) (a : HostAction) (w : Option Nat) (rest : List HostEntry),
    (a = .readStatus name ∨ a = .readOut name ∨ a = .read name) →
    s.host = { action := a, window := w } :: rest → step s = .next s' →
    sameEngine (runWindow Config.tables (nextAction rest w s)) s' ∧
    s'.cmd = s.cmd ∧ s'.blkIn = s.blkIn ∧ s'.keyIn = s.keyIn ∧ s'.cmdWritten = s.cmdWritten ∧
    s'.blkWritten = s.blkWritten ∧ s'.keyWritten = s.keyWritten ∧ s'.host = rest ∧
    s'.startFault = s.startFault ∧
    ∃ r : Reading, s'.reads = r :: s.reads ∧ r.name = name ∧
      (a = .readStatus name → r.status = some s.status ∧ r.out = none) ∧
      (a = .readOut name → r.status = none ∧ r.out = s.blkOut) ∧
      (a = .read name → r.status = some s.status ∧ r.out = if resultValid s.status then s.blkOut else none)

/-- R76: READ binds the status always, and the result exactly if DONE = 1 and ERR = 0; from a consistent
state it never faults (one step for both reads: log entry 22). -/
def Obligations.ReadBindsResult : Prop :=
  ∀ (s : State) (name : Name) (w : Option Nat) (rest : List HostEntry),
    s.consistent = true → s.host = { action := .read name, window := w } :: rest →
    ∃ s' : State, step s = .next s' ∧
      s'.reads = { name := name, status := some s.status,
                   out := if resultValid s.status then s.blkOut else none } :: s.reads ∧
      (resultValid s.status = true ↔ (boundOut name s'.reads).isSome = true)

/-- R76: a bound name stands for its 16 bytes as an operand; a use of an unbound name is a fault (which reading
a name stands for: log entry 11). -/
def Obligations.NameOperand : Prop :=
  ∀ (s : State) (name : Name) (w : Option Nat) (rest : List HostEntry),
    s.host = { action := .writeBlk (.out name), window := w } :: rest →
    (boundOut name s.reads = none → step s = .fault .unboundName) ∧
    (∀ b : Block, boundOut name s.reads = some b → ∃ s', step s = .next s' ∧ s'.blkIn = b.toList)

/-- 93_implementation_defined.md items 14, 15: an observation of a STATUS value that is reserved or never produced is
refused; R30: exactly the five values are legal, and ERR = 3 is in none (log entry 10). -/
def Obligations.ReservedStatusRefused : Prop :=
  (∀ (s : State) (name : Name) (a : HostAction) (w : Option Nat) (rest : List HostEntry),
    (a = .readStatus name ∨ a = .wait ∨ a = .read name) → s.host = { action := a, window := w } :: rest →
    legalStatus s.status = false → step s = .refused .reservedStatus) ∧
  (∀ st : BitVec 4, legalStatus st = true ↔
    st = 0b0000 ∨ st = 0b0001 ∨ st = 0b0010 ∨ st = 0b0110 ∨ st = 0b1010) ∧
  (∀ st : BitVec 4, statusErr st = 3 → legalStatus st = false)

/-- R30, R31: the fields of STATUS: BUSY is bit 0, DONE is bit 1, ERR is bits 3:2; a STATUS value is its three fields;
and the errors' codes. -/
def Obligations.StatusFields : Prop :=
  (∀ st : BitVec 4, statusBusy st = st.getLsbD 0 ∧ statusDone st = st.getLsbD 1 ∧ statusErr st = st.extractLsb' 2 2) ∧
  (∀ (busy done : Bool) (err : BitVec 2),
    (mkStatus busy done err).getLsbD 0 = busy ∧ (mkStatus busy done err).getLsbD 1 = done ∧
    (mkStatus busy done err).extractLsb' 2 2 = err) ∧
  (∀ st : BitVec 4, mkStatus (statusBusy st) (statusDone st) (statusErr st) = st) ∧
  errNone = 0 ∧ errCode .invalidBlockSize = 1 ∧ errCode .corruptTable = 2

/-- R76, R77: what each of the five steps and the two pseudo-instructions stands for, and that a program's actions are
its lines' actions in order.  That a command is four actions in the order R76 writes them: log entry 13; that WAIT and
READ are one action each: log entries 7, 22. -/
def Obligations.HostLanguageExpansion : Prop :=
  (∀ (name : Name) (blk : Operand) (key : List Byte),
    programActions [.step (.enc blk key)] = [.writeCmd 0, .writeBlk blk, .writeKey key, .start] ∧
    programActions [.step (.dec blk key)] = [.writeCmd 1, .writeBlk blk, .writeKey key, .start] ∧
    programActions [.step .wait] = [.wait] ∧
    programActions [.step (.read name)] = [.read name] ∧
    programActions [.step .reset] = [.reset] ∧
    programActions [.encw name blk key] =
      programActions [.step (.enc blk key), .step .wait, .step (.read name)] ∧
    programActions [.decw name blk key] =
      programActions [.step (.dec blk key), .step .wait, .step (.read name)]) ∧
  (∀ p q : List HostLine, programActions (p ++ q) = programActions p ++ programActions q)

/-- R76: hexadecimal literals: bytes written as digits, byte 0 first, read back as those bytes, in either case of the
letters; an odd number of digits is rejected (a literal of no digits is none: log entry 12). -/
def Obligations.HexLiteralRoundTrip : Prop :=
  (∀ bs : List Byte, bs ≠ [] →
    parseHex (printHex bs) = .ok bs ∧ parseHex ((printHex bs).map Char.toLower) = .ok bs ∧
    (printHex bs).length = 2 * bs.length) ∧
  (∀ cs : List Char, (cs.all isHexDigit) = true → cs.length % 2 = 1 → parseHex cs = .error .oddHexDigits)
end

