-- ==== Sys2Proof/Laws/Datapath.lean ====
section
/-! SUPPORT. Laws/Datapath.lean: what each datapath function puts at a byte index, the form later proofs rewrite with, so
that none of them unfolds the function. -/

namespace Sys2Proof.Machine

section ByteAt

variable (t : Tables) (B K : Block) (i : Nat) (h : i < 16)

/-- Every byte value is in the table's index range. -/
@[simp] theorem mem_allBytes (b : Byte) : b ∈ allBytes := by
  simp only [allBytes, List.mem_map, List.mem_range]
  exact ⟨b.toNat, b.isLt, by simp⟩

@[simp] theorem keyXor_getElem : (keyXor B K)[i] = B[i] ^^^ K[i] := by simp [keyXor]

@[simp] theorem maskXor_getElem : (maskXor t B)[i] = B[i] ^^^ t.mask[i] := by simp [maskXor]

@[simp] theorem subBlock_getElem : (subBlock t B)[i] = t.sbox B[i] := by simp [subBlock, subByte]

@[simp] theorem colRot_getElem : (colRot B)[i] = B[(i + 8) % 16] := by simp [colRot]

@[simp] theorem rowRot_getElem : (rowRot B)[i] = B[4 * (i / 4) + (i % 4 + 2) % 4] := by simp [rowRot]

@[simp] theorem zero_getElem : Block.zero[i] = 0 := by simp [Block.zero]

@[simp] theorem unpackBlock_getElem (W : PortWord) : (unpackBlock W)[i] = W.extractLsb' (120 - 8 * i) 8 := by
  simp [unpackBlock]

/-- One step of a chain writes the bytes i and i+1 and no other. -/
theorem pairStep_getElem (f : Byte → Byte → Byte × Byte) (j : Fin 15) :
    (pairStep f B j)[i] =
      if i = j.val + 1 then (f B[j.val] B[j.val + 1]).2
      else if i = j.val then (f B[j.val] B[j.val + 1]).1 else B[i] := by
  simp only [pairStep, Vector.getElem_set]
  split_ifs <;> first | rfl | omega

end ByteAt

variable (t : Tables) (B K : Block)

/-- A block as its byte sequence is accepted as that block. -/
@[simp] theorem blockOfBytes_toList : blockOfBytes B.toList = some B := by
  have hl : B.toList.length = 16 := by simp
  rw [blockOfBytes, dif_pos hl]
  exact congrArg some (Vector.toList_inj.mp (by simp))

/-- R200: a byte sequence is a block exactly if it is 16 bytes long. -/
theorem blockOfBytes_eq_none {bs : List Byte} (hl : bs.length ≠ 16) : blockOfBytes bs = none := by
  simp [blockOfBytes, hl]

theorem blockOfBytes_eq_some {bs : List Byte} (hb : blockOfBytes bs = some B) : bs = B.toList := by
  unfold blockOfBytes at hb
  split at hb
  · cases hb; simp
  · cases hb

/-- The result of a lookup is a preimage. -/
theorem sbox_of_invSbox {b k : Byte} (hk : invSbox t b = some k) : t.sbox k = b := by
  rw [invSbox] at hk
  simpa using List.find?_some hk

/-- R163: where every byte has an entry in `INV_SBOX`, the result is those entries. -/
theorem invSubBlock_ok {T : Block} (hT : ∀ j : Fin 16, invSbox t B[j] = some T[j]) : invSubBlock t B = .ok T := by
  unfold invSubBlock
  rw [dif_pos]
  case hc => exact fun j => by rw [hT j]; rfl
  congr 1
  ext j hj : 1
  have e := hT ⟨j, hj⟩
  simp only [Fin.getElem_fin] at e
  simp [e]

/-- R163: one byte without an entry raises. -/
theorem invSubBlock_raises {j : Fin 16} (hj : invSbox t B[j] = none) : invSubBlock t B = .error .corruptTable := by
  unfold invSubBlock
  rw [dif_neg]
  intro hs
  have e := hs j
  rw [hj] at e
  cases e

/-- The only error of the inverse substitution is CorruptTableError (R201). -/
theorem invSubBlock_error {e : EngineError} (he : invSubBlock t B = .error e) : e = .corruptTable := by
  unfold invSubBlock at he
  split at he
  · cases he
  · cases he; rfl

theorem decRound_error {e : EngineError} (he : decRound t B K = .error e) : e = .corruptTable := by
  unfold decRound at he
  split at he
  · cases he
  · cases he; exact invSubBlock_error t _ ‹_›

@[simp] theorem encRounds_zero : encRounds t B K 0 = B := rfl

@[simp] theorem encRounds_succ (r : Nat) : encRounds t B K (r + 1) = encRound t (encRounds t B K r) K := rfl

@[simp] theorem decRounds_zero : decRounds t B K 0 = .ok (keyXor B K) := rfl

/-- A list of datapath steps runs in two parts. -/
theorem microRun_append (xs ys : List MicroOp) {S T : Block} (hx : microRun t K xs S = .ok T) :
    microRun t K (xs ++ ys) S = microRun t K ys T := by
  induction xs generalizing S with
  | nil => cases hx; rfl
  | cons op ops ih =>
    simp only [microRun, List.cons_append] at hx ⊢
    split at hx
    · exact ih hx
    · cases hx

end Sys2Proof.Machine
end

