-- ==== Sys2Proof/Laws/State.lean ====
section
/-! SUPPORT. Laws/State.lean: one lemma per field per update of State, each true by rfl, so that no later proof
unfolds a record update. -/

namespace Sys2Proof.Machine

@[simp] theorem latchCommand_cmd (i : Instr) (s : State) : (latchCommand i s).cmd = s.cmd := rfl
@[simp] theorem latchCommand_blkIn (i : Instr) (s : State) : (latchCommand i s).blkIn = s.blkIn := rfl
@[simp] theorem latchCommand_keyIn (i : Instr) (s : State) : (latchCommand i s).keyIn = s.keyIn := rfl
@[simp] theorem latchCommand_blkOut (i : Instr) (s : State) : (latchCommand i s).blkOut = none := rfl
@[simp] theorem latchCommand_status (i : Instr) (s : State) : (latchCommand i s).status = mkStatus true false errNone := rfl
@[simp] theorem latchCommand_work (i : Instr) (s : State) : (latchCommand i s).work = s.work := rfl
@[simp] theorem latchCommand_ph (i : Instr) (s : State) : (latchCommand i s).ph = s.ph := rfl
@[simp] theorem latchCommand_rc (i : Instr) (s : State) : (latchCommand i s).rc = s.rc := rfl
@[simp] theorem latchCommand_kr (i : Instr) (s : State) : (latchCommand i s).kr = s.kr := rfl
@[simp] theorem latchCommand_opr (i : Instr) (s : State) : (latchCommand i s).opr = encode i := rfl
@[simp] theorem latchCommand_cmdWritten (i : Instr) (s : State) : (latchCommand i s).cmdWritten = s.cmdWritten := rfl
@[simp] theorem latchCommand_blkWritten (i : Instr) (s : State) : (latchCommand i s).blkWritten = s.blkWritten := rfl
@[simp] theorem latchCommand_keyWritten (i : Instr) (s : State) : (latchCommand i s).keyWritten = s.keyWritten := rfl
@[simp] theorem latchCommand_startFault (i : Instr) (s : State) : (latchCommand i s).startFault = s.startFault := rfl
@[simp] theorem latchCommand_host (i : Instr) (s : State) : (latchCommand i s).host = s.host := rfl
@[simp] theorem latchCommand_reads (i : Instr) (s : State) : (latchCommand i s).reads = s.reads := rfl
@[simp] theorem latchCommand_window (i : Instr) (s : State) : (latchCommand i s).window = s.window := rfl

@[simp] theorem loadOperands_cmd (i : Instr) (b k : Block) (s : State) : (loadOperands i b k s).cmd = s.cmd := rfl
@[simp] theorem loadOperands_blkIn (i : Instr) (b k : Block) (s : State) : (loadOperands i b k s).blkIn = s.blkIn := rfl
@[simp] theorem loadOperands_keyIn (i : Instr) (b k : Block) (s : State) : (loadOperands i b k s).keyIn = s.keyIn := rfl
@[simp] theorem loadOperands_blkOut (i : Instr) (b k : Block) (s : State) : (loadOperands i b k s).blkOut = s.blkOut := rfl
@[simp] theorem loadOperands_status (i : Instr) (b k : Block) (s : State) : (loadOperands i b k s).status = s.status := rfl
@[simp] theorem loadOperands_work (i : Instr) (b k : Block) (s : State) : (loadOperands i b k s).work = b := rfl
@[simp] theorem loadOperands_ph (i : Instr) (b k : Block) (s : State) : (loadOperands i b k s).ph = runPhase i := rfl
@[simp] theorem loadOperands_rc (i : Instr) (b k : Block) (s : State) : (loadOperands i b k s).rc = 0 := rfl
@[simp] theorem loadOperands_kr (i : Instr) (b k : Block) (s : State) : (loadOperands i b k s).kr = k := rfl
@[simp] theorem loadOperands_opr (i : Instr) (b k : Block) (s : State) : (loadOperands i b k s).opr = s.opr := rfl
@[simp] theorem loadOperands_cmdWritten (i : Instr) (b k : Block) (s : State) : (loadOperands i b k s).cmdWritten = s.cmdWritten := rfl
@[simp] theorem loadOperands_blkWritten (i : Instr) (b k : Block) (s : State) : (loadOperands i b k s).blkWritten = s.blkWritten := rfl
@[simp] theorem loadOperands_keyWritten (i : Instr) (b k : Block) (s : State) : (loadOperands i b k s).keyWritten = s.keyWritten := rfl
@[simp] theorem loadOperands_startFault (i : Instr) (b k : Block) (s : State) : (loadOperands i b k s).startFault = s.startFault := rfl
@[simp] theorem loadOperands_host (i : Instr) (b k : Block) (s : State) : (loadOperands i b k s).host = s.host := rfl
@[simp] theorem loadOperands_reads (i : Instr) (b k : Block) (s : State) : (loadOperands i b k s).reads = s.reads := rfl
@[simp] theorem loadOperands_window (i : Instr) (b k : Block) (s : State) : (loadOperands i b k s).window = s.window := rfl

@[simp] theorem takeError_cmd (e : EngineError) (s : State) : (takeError e s).cmd = s.cmd := rfl
@[simp] theorem takeError_blkIn (e : EngineError) (s : State) : (takeError e s).blkIn = s.blkIn := rfl
@[simp] theorem takeError_keyIn (e : EngineError) (s : State) : (takeError e s).keyIn = s.keyIn := rfl
@[simp] theorem takeError_blkOut (e : EngineError) (s : State) : (takeError e s).blkOut = none := rfl
@[simp] theorem takeError_status (e : EngineError) (s : State) : (takeError e s).status = mkStatus false true (errCode e) := rfl
@[simp] theorem takeError_work (e : EngineError) (s : State) : (takeError e s).work = s.work := rfl
@[simp] theorem takeError_ph (e : EngineError) (s : State) : (takeError e s).ph = .idle := rfl
@[simp] theorem takeError_rc (e : EngineError) (s : State) : (takeError e s).rc = s.rc := rfl
@[simp] theorem takeError_kr (e : EngineError) (s : State) : (takeError e s).kr = s.kr := rfl
@[simp] theorem takeError_opr (e : EngineError) (s : State) : (takeError e s).opr = s.opr := rfl
@[simp] theorem takeError_cmdWritten (e : EngineError) (s : State) : (takeError e s).cmdWritten = s.cmdWritten := rfl
@[simp] theorem takeError_blkWritten (e : EngineError) (s : State) : (takeError e s).blkWritten = s.blkWritten := rfl
@[simp] theorem takeError_keyWritten (e : EngineError) (s : State) : (takeError e s).keyWritten = s.keyWritten := rfl
@[simp] theorem takeError_startFault (e : EngineError) (s : State) : (takeError e s).startFault = s.startFault := rfl
@[simp] theorem takeError_host (e : EngineError) (s : State) : (takeError e s).host = s.host := rfl
@[simp] theorem takeError_reads (e : EngineError) (s : State) : (takeError e s).reads = s.reads := rfl
@[simp] theorem takeError_window (e : EngineError) (s : State) : (takeError e s).window = s.window := rfl

@[simp] theorem complete_cmd (s : State) : (complete s).cmd = s.cmd := rfl
@[simp] theorem complete_blkIn (s : State) : (complete s).blkIn = s.blkIn := rfl
@[simp] theorem complete_keyIn (s : State) : (complete s).keyIn = s.keyIn := rfl
@[simp] theorem complete_blkOut (s : State) : (complete s).blkOut = some s.work := rfl
@[simp] theorem complete_status (s : State) : (complete s).status = mkStatus false true errNone := rfl
@[simp] theorem complete_work (s : State) : (complete s).work = s.work := rfl
@[simp] theorem complete_ph (s : State) : (complete s).ph = .idle := rfl
@[simp] theorem complete_rc (s : State) : (complete s).rc = s.rc := rfl
@[simp] theorem complete_kr (s : State) : (complete s).kr = s.kr := rfl
@[simp] theorem complete_opr (s : State) : (complete s).opr = s.opr := rfl
@[simp] theorem complete_cmdWritten (s : State) : (complete s).cmdWritten = s.cmdWritten := rfl
@[simp] theorem complete_blkWritten (s : State) : (complete s).blkWritten = s.blkWritten := rfl
@[simp] theorem complete_keyWritten (s : State) : (complete s).keyWritten = s.keyWritten := rfl
@[simp] theorem complete_startFault (s : State) : (complete s).startFault = s.startFault := rfl
@[simp] theorem complete_host (s : State) : (complete s).host = s.host := rfl
@[simp] theorem complete_reads (s : State) : (complete s).reads = s.reads := rfl
@[simp] theorem complete_window (s : State) : (complete s).window = s.window := rfl

@[simp] theorem endRound_cmd (b : Block) (s : State) : (endRound b s).cmd = s.cmd := rfl
@[simp] theorem endRound_blkIn (b : Block) (s : State) : (endRound b s).blkIn = s.blkIn := rfl
@[simp] theorem endRound_keyIn (b : Block) (s : State) : (endRound b s).keyIn = s.keyIn := rfl
@[simp] theorem endRound_blkOut (b : Block) (s : State) : (endRound b s).blkOut = s.blkOut := rfl
@[simp] theorem endRound_status (b : Block) (s : State) : (endRound b s).status = s.status := rfl
@[simp] theorem endRound_work (b : Block) (s : State) : (endRound b s).work = b := rfl
@[simp] theorem endRound_ph (b : Block) (s : State) : (endRound b s).ph = s.ph := rfl
@[simp] theorem endRound_rc (b : Block) (s : State) : (endRound b s).rc = s.rc + 1 := rfl
@[simp] theorem endRound_kr (b : Block) (s : State) : (endRound b s).kr = s.kr := rfl
@[simp] theorem endRound_opr (b : Block) (s : State) : (endRound b s).opr = s.opr := rfl
@[simp] theorem endRound_cmdWritten (b : Block) (s : State) : (endRound b s).cmdWritten = s.cmdWritten := rfl
@[simp] theorem endRound_blkWritten (b : Block) (s : State) : (endRound b s).blkWritten = s.blkWritten := rfl
@[simp] theorem endRound_keyWritten (b : Block) (s : State) : (endRound b s).keyWritten = s.keyWritten := rfl
@[simp] theorem endRound_startFault (b : Block) (s : State) : (endRound b s).startFault = s.startFault := rfl
@[simp] theorem endRound_host (b : Block) (s : State) : (endRound b s).host = s.host := rfl
@[simp] theorem endRound_reads (b : Block) (s : State) : (endRound b s).reads = s.reads := rfl
@[simp] theorem endRound_window (b : Block) (s : State) : (endRound b s).window = s.window := rfl

@[simp] theorem setWork_cmd (b : Block) (s : State) : (setWork b s).cmd = s.cmd := rfl
@[simp] theorem setWork_blkIn (b : Block) (s : State) : (setWork b s).blkIn = s.blkIn := rfl
@[simp] theorem setWork_keyIn (b : Block) (s : State) : (setWork b s).keyIn = s.keyIn := rfl
@[simp] theorem setWork_blkOut (b : Block) (s : State) : (setWork b s).blkOut = s.blkOut := rfl
@[simp] theorem setWork_status (b : Block) (s : State) : (setWork b s).status = s.status := rfl
@[simp] theorem setWork_work (b : Block) (s : State) : (setWork b s).work = b := rfl
@[simp] theorem setWork_ph (b : Block) (s : State) : (setWork b s).ph = s.ph := rfl
@[simp] theorem setWork_rc (b : Block) (s : State) : (setWork b s).rc = s.rc := rfl
@[simp] theorem setWork_kr (b : Block) (s : State) : (setWork b s).kr = s.kr := rfl
@[simp] theorem setWork_opr (b : Block) (s : State) : (setWork b s).opr = s.opr := rfl
@[simp] theorem setWork_cmdWritten (b : Block) (s : State) : (setWork b s).cmdWritten = s.cmdWritten := rfl
@[simp] theorem setWork_blkWritten (b : Block) (s : State) : (setWork b s).blkWritten = s.blkWritten := rfl
@[simp] theorem setWork_keyWritten (b : Block) (s : State) : (setWork b s).keyWritten = s.keyWritten := rfl
@[simp] theorem setWork_startFault (b : Block) (s : State) : (setWork b s).startFault = s.startFault := rfl
@[simp] theorem setWork_host (b : Block) (s : State) : (setWork b s).host = s.host := rfl
@[simp] theorem setWork_reads (b : Block) (s : State) : (setWork b s).reads = s.reads := rfl
@[simp] theorem setWork_window (b : Block) (s : State) : (setWork b s).window = s.window := rfl

@[simp] theorem resetEngine_cmd (s : State) : (resetEngine s).cmd = State.reset.cmd := rfl
@[simp] theorem resetEngine_blkIn (s : State) : (resetEngine s).blkIn = State.reset.blkIn := rfl
@[simp] theorem resetEngine_keyIn (s : State) : (resetEngine s).keyIn = State.reset.keyIn := rfl
@[simp] theorem resetEngine_blkOut (s : State) : (resetEngine s).blkOut = State.reset.blkOut := rfl
@[simp] theorem resetEngine_status (s : State) : (resetEngine s).status = State.reset.status := rfl
@[simp] theorem resetEngine_work (s : State) : (resetEngine s).work = State.reset.work := rfl
@[simp] theorem resetEngine_ph (s : State) : (resetEngine s).ph = State.reset.ph := rfl
@[simp] theorem resetEngine_rc (s : State) : (resetEngine s).rc = State.reset.rc := rfl
@[simp] theorem resetEngine_kr (s : State) : (resetEngine s).kr = State.reset.kr := rfl
@[simp] theorem resetEngine_opr (s : State) : (resetEngine s).opr = State.reset.opr := rfl
@[simp] theorem resetEngine_cmdWritten (s : State) : (resetEngine s).cmdWritten = State.reset.cmdWritten := rfl
@[simp] theorem resetEngine_blkWritten (s : State) : (resetEngine s).blkWritten = State.reset.blkWritten := rfl
@[simp] theorem resetEngine_keyWritten (s : State) : (resetEngine s).keyWritten = State.reset.keyWritten := rfl
@[simp] theorem resetEngine_startFault (s : State) : (resetEngine s).startFault = s.startFault := rfl
@[simp] theorem resetEngine_host (s : State) : (resetEngine s).host = s.host := rfl
@[simp] theorem resetEngine_reads (s : State) : (resetEngine s).reads = s.reads := rfl
@[simp] theorem resetEngine_window (s : State) : (resetEngine s).window = s.window := rfl

@[simp] theorem nextAction_cmd (rest : List HostEntry) (w : Option Nat) (s : State) : (nextAction rest w s).cmd = s.cmd := rfl
@[simp] theorem nextAction_blkIn (rest : List HostEntry) (w : Option Nat) (s : State) : (nextAction rest w s).blkIn = s.blkIn := rfl
@[simp] theorem nextAction_keyIn (rest : List HostEntry) (w : Option Nat) (s : State) : (nextAction rest w s).keyIn = s.keyIn := rfl
@[simp] theorem nextAction_blkOut (rest : List HostEntry) (w : Option Nat) (s : State) : (nextAction rest w s).blkOut = s.blkOut := rfl
@[simp] theorem nextAction_status (rest : List HostEntry) (w : Option Nat) (s : State) : (nextAction rest w s).status = s.status := rfl
@[simp] theorem nextAction_work (rest : List HostEntry) (w : Option Nat) (s : State) : (nextAction rest w s).work = s.work := rfl
@[simp] theorem nextAction_ph (rest : List HostEntry) (w : Option Nat) (s : State) : (nextAction rest w s).ph = s.ph := rfl
@[simp] theorem nextAction_rc (rest : List HostEntry) (w : Option Nat) (s : State) : (nextAction rest w s).rc = s.rc := rfl
@[simp] theorem nextAction_kr (rest : List HostEntry) (w : Option Nat) (s : State) : (nextAction rest w s).kr = s.kr := rfl
@[simp] theorem nextAction_opr (rest : List HostEntry) (w : Option Nat) (s : State) : (nextAction rest w s).opr = s.opr := rfl
@[simp] theorem nextAction_cmdWritten (rest : List HostEntry) (w : Option Nat) (s : State) : (nextAction rest w s).cmdWritten = s.cmdWritten := rfl
@[simp] theorem nextAction_blkWritten (rest : List HostEntry) (w : Option Nat) (s : State) : (nextAction rest w s).blkWritten = s.blkWritten := rfl
@[simp] theorem nextAction_keyWritten (rest : List HostEntry) (w : Option Nat) (s : State) : (nextAction rest w s).keyWritten = s.keyWritten := rfl
@[simp] theorem nextAction_startFault (rest : List HostEntry) (w : Option Nat) (s : State) : (nextAction rest w s).startFault = s.startFault := rfl
@[simp] theorem nextAction_host (rest : List HostEntry) (w : Option Nat) (s : State) : (nextAction rest w s).host = rest := rfl
@[simp] theorem nextAction_reads (rest : List HostEntry) (w : Option Nat) (s : State) : (nextAction rest w s).reads = s.reads := rfl
@[simp] theorem nextAction_window (rest : List HostEntry) (w : Option Nat) (s : State) : (nextAction rest w s).window = w := rfl

@[simp] theorem writeCmd_cmd (op : BitVec 1) (s : State) : (writeCmd op s).cmd = op := rfl
@[simp] theorem writeCmd_blkIn (op : BitVec 1) (s : State) : (writeCmd op s).blkIn = s.blkIn := rfl
@[simp] theorem writeCmd_keyIn (op : BitVec 1) (s : State) : (writeCmd op s).keyIn = s.keyIn := rfl
@[simp] theorem writeCmd_blkOut (op : BitVec 1) (s : State) : (writeCmd op s).blkOut = s.blkOut := rfl
@[simp] theorem writeCmd_status (op : BitVec 1) (s : State) : (writeCmd op s).status = s.status := rfl
@[simp] theorem writeCmd_work (op : BitVec 1) (s : State) : (writeCmd op s).work = s.work := rfl
@[simp] theorem writeCmd_ph (op : BitVec 1) (s : State) : (writeCmd op s).ph = s.ph := rfl
@[simp] theorem writeCmd_rc (op : BitVec 1) (s : State) : (writeCmd op s).rc = s.rc := rfl
@[simp] theorem writeCmd_kr (op : BitVec 1) (s : State) : (writeCmd op s).kr = s.kr := rfl
@[simp] theorem writeCmd_opr (op : BitVec 1) (s : State) : (writeCmd op s).opr = s.opr := rfl
@[simp] theorem writeCmd_cmdWritten (op : BitVec 1) (s : State) : (writeCmd op s).cmdWritten = true := rfl
@[simp] theorem writeCmd_blkWritten (op : BitVec 1) (s : State) : (writeCmd op s).blkWritten = s.blkWritten := rfl
@[simp] theorem writeCmd_keyWritten (op : BitVec 1) (s : State) : (writeCmd op s).keyWritten = s.keyWritten := rfl
@[simp] theorem writeCmd_startFault (op : BitVec 1) (s : State) : (writeCmd op s).startFault = s.startFault := rfl
@[simp] theorem writeCmd_host (op : BitVec 1) (s : State) : (writeCmd op s).host = s.host := rfl
@[simp] theorem writeCmd_reads (op : BitVec 1) (s : State) : (writeCmd op s).reads = s.reads := rfl
@[simp] theorem writeCmd_window (op : BitVec 1) (s : State) : (writeCmd op s).window = s.window := rfl

@[simp] theorem writeBlk_cmd (bs : List Byte) (s : State) : (writeBlk bs s).cmd = s.cmd := rfl
@[simp] theorem writeBlk_blkIn (bs : List Byte) (s : State) : (writeBlk bs s).blkIn = bs := rfl
@[simp] theorem writeBlk_keyIn (bs : List Byte) (s : State) : (writeBlk bs s).keyIn = s.keyIn := rfl
@[simp] theorem writeBlk_blkOut (bs : List Byte) (s : State) : (writeBlk bs s).blkOut = s.blkOut := rfl
@[simp] theorem writeBlk_status (bs : List Byte) (s : State) : (writeBlk bs s).status = s.status := rfl
@[simp] theorem writeBlk_work (bs : List Byte) (s : State) : (writeBlk bs s).work = s.work := rfl
@[simp] theorem writeBlk_ph (bs : List Byte) (s : State) : (writeBlk bs s).ph = s.ph := rfl
@[simp] theorem writeBlk_rc (bs : List Byte) (s : State) : (writeBlk bs s).rc = s.rc := rfl
@[simp] theorem writeBlk_kr (bs : List Byte) (s : State) : (writeBlk bs s).kr = s.kr := rfl
@[simp] theorem writeBlk_opr (bs : List Byte) (s : State) : (writeBlk bs s).opr = s.opr := rfl
@[simp] theorem writeBlk_cmdWritten (bs : List Byte) (s : State) : (writeBlk bs s).cmdWritten = s.cmdWritten := rfl
@[simp] theorem writeBlk_blkWritten (bs : List Byte) (s : State) : (writeBlk bs s).blkWritten = true := rfl
@[simp] theorem writeBlk_keyWritten (bs : List Byte) (s : State) : (writeBlk bs s).keyWritten = s.keyWritten := rfl
@[simp] theorem writeBlk_startFault (bs : List Byte) (s : State) : (writeBlk bs s).startFault = s.startFault := rfl
@[simp] theorem writeBlk_host (bs : List Byte) (s : State) : (writeBlk bs s).host = s.host := rfl
@[simp] theorem writeBlk_reads (bs : List Byte) (s : State) : (writeBlk bs s).reads = s.reads := rfl
@[simp] theorem writeBlk_window (bs : List Byte) (s : State) : (writeBlk bs s).window = s.window := rfl

@[simp] theorem writeKey_cmd (bs : List Byte) (s : State) : (writeKey bs s).cmd = s.cmd := rfl
@[simp] theorem writeKey_blkIn (bs : List Byte) (s : State) : (writeKey bs s).blkIn = s.blkIn := rfl
@[simp] theorem writeKey_keyIn (bs : List Byte) (s : State) : (writeKey bs s).keyIn = bs := rfl
@[simp] theorem writeKey_blkOut (bs : List Byte) (s : State) : (writeKey bs s).blkOut = s.blkOut := rfl
@[simp] theorem writeKey_status (bs : List Byte) (s : State) : (writeKey bs s).status = s.status := rfl
@[simp] theorem writeKey_work (bs : List Byte) (s : State) : (writeKey bs s).work = s.work := rfl
@[simp] theorem writeKey_ph (bs : List Byte) (s : State) : (writeKey bs s).ph = s.ph := rfl
@[simp] theorem writeKey_rc (bs : List Byte) (s : State) : (writeKey bs s).rc = s.rc := rfl
@[simp] theorem writeKey_kr (bs : List Byte) (s : State) : (writeKey bs s).kr = s.kr := rfl
@[simp] theorem writeKey_opr (bs : List Byte) (s : State) : (writeKey bs s).opr = s.opr := rfl
@[simp] theorem writeKey_cmdWritten (bs : List Byte) (s : State) : (writeKey bs s).cmdWritten = s.cmdWritten := rfl
@[simp] theorem writeKey_blkWritten (bs : List Byte) (s : State) : (writeKey bs s).blkWritten = s.blkWritten := rfl
@[simp] theorem writeKey_keyWritten (bs : List Byte) (s : State) : (writeKey bs s).keyWritten = true := rfl
@[simp] theorem writeKey_startFault (bs : List Byte) (s : State) : (writeKey bs s).startFault = s.startFault := rfl
@[simp] theorem writeKey_host (bs : List Byte) (s : State) : (writeKey bs s).host = s.host := rfl
@[simp] theorem writeKey_reads (bs : List Byte) (s : State) : (writeKey bs s).reads = s.reads := rfl
@[simp] theorem writeKey_window (bs : List Byte) (s : State) : (writeKey bs s).window = s.window := rfl

@[simp] theorem recordStart_cmd (s : State) : (recordStart s).cmd = s.cmd := rfl
@[simp] theorem recordStart_blkIn (s : State) : (recordStart s).blkIn = s.blkIn := rfl
@[simp] theorem recordStart_keyIn (s : State) : (recordStart s).keyIn = s.keyIn := rfl
@[simp] theorem recordStart_blkOut (s : State) : (recordStart s).blkOut = s.blkOut := rfl
@[simp] theorem recordStart_status (s : State) : (recordStart s).status = s.status := rfl
@[simp] theorem recordStart_work (s : State) : (recordStart s).work = s.work := rfl
@[simp] theorem recordStart_ph (s : State) : (recordStart s).ph = s.ph := rfl
@[simp] theorem recordStart_rc (s : State) : (recordStart s).rc = s.rc := rfl
@[simp] theorem recordStart_kr (s : State) : (recordStart s).kr = s.kr := rfl
@[simp] theorem recordStart_opr (s : State) : (recordStart s).opr = s.opr := rfl
@[simp] theorem recordStart_cmdWritten (s : State) : (recordStart s).cmdWritten = s.cmdWritten := rfl
@[simp] theorem recordStart_blkWritten (s : State) : (recordStart s).blkWritten = s.blkWritten := rfl
@[simp] theorem recordStart_keyWritten (s : State) : (recordStart s).keyWritten = s.keyWritten := rfl
@[simp] theorem recordStart_startFault (s : State) : (recordStart s).startFault = true := rfl
@[simp] theorem recordStart_host (s : State) : (recordStart s).host = s.host := rfl
@[simp] theorem recordStart_reads (s : State) : (recordStart s).reads = s.reads := rfl
@[simp] theorem recordStart_window (s : State) : (recordStart s).window = s.window := rfl

@[simp] theorem bindReading_cmd (r : Reading) (s : State) : (bindReading r s).cmd = s.cmd := rfl
@[simp] theorem bindReading_blkIn (r : Reading) (s : State) : (bindReading r s).blkIn = s.blkIn := rfl
@[simp] theorem bindReading_keyIn (r : Reading) (s : State) : (bindReading r s).keyIn = s.keyIn := rfl
@[simp] theorem bindReading_blkOut (r : Reading) (s : State) : (bindReading r s).blkOut = s.blkOut := rfl
@[simp] theorem bindReading_status (r : Reading) (s : State) : (bindReading r s).status = s.status := rfl
@[simp] theorem bindReading_work (r : Reading) (s : State) : (bindReading r s).work = s.work := rfl
@[simp] theorem bindReading_ph (r : Reading) (s : State) : (bindReading r s).ph = s.ph := rfl
@[simp] theorem bindReading_rc (r : Reading) (s : State) : (bindReading r s).rc = s.rc := rfl
@[simp] theorem bindReading_kr (r : Reading) (s : State) : (bindReading r s).kr = s.kr := rfl
@[simp] theorem bindReading_opr (r : Reading) (s : State) : (bindReading r s).opr = s.opr := rfl
@[simp] theorem bindReading_cmdWritten (r : Reading) (s : State) : (bindReading r s).cmdWritten = s.cmdWritten := rfl
@[simp] theorem bindReading_blkWritten (r : Reading) (s : State) : (bindReading r s).blkWritten = s.blkWritten := rfl
@[simp] theorem bindReading_keyWritten (r : Reading) (s : State) : (bindReading r s).keyWritten = s.keyWritten := rfl
@[simp] theorem bindReading_startFault (r : Reading) (s : State) : (bindReading r s).startFault = s.startFault := rfl
@[simp] theorem bindReading_host (r : Reading) (s : State) : (bindReading r s).host = s.host := rfl
@[simp] theorem bindReading_reads (r : Reading) (s : State) : (bindReading r s).reads = r :: s.reads := rfl
@[simp] theorem bindReading_window (r : Reading) (s : State) : (bindReading r s).window = s.window := rfl

@[simp] theorem withFetchWord_cmd (s : State) (nbits w : Nat) :
    (s.withFetchWord nbits w).cmd = fetchCmd nbits w := rfl
@[simp] theorem withFetchWord_blkIn (s : State) (nbits w : Nat) :
    (s.withFetchWord nbits w).blkIn = s.blkIn := rfl
@[simp] theorem withFetchWord_keyIn (s : State) (nbits w : Nat) :
    (s.withFetchWord nbits w).keyIn = s.keyIn := rfl
@[simp] theorem withFetchWord_blkOut (s : State) (nbits w : Nat) :
    (s.withFetchWord nbits w).blkOut = s.blkOut := rfl
@[simp] theorem withFetchWord_status (s : State) (nbits w : Nat) :
    (s.withFetchWord nbits w).status = s.status := rfl
@[simp] theorem withFetchWord_work (s : State) (nbits w : Nat) :
    (s.withFetchWord nbits w).work = s.work := rfl
@[simp] theorem withFetchWord_ph (s : State) (nbits w : Nat) :
    (s.withFetchWord nbits w).ph = .idle := rfl
@[simp] theorem withFetchWord_rc (s : State) (nbits w : Nat) :
    (s.withFetchWord nbits w).rc = s.rc := rfl
@[simp] theorem withFetchWord_kr (s : State) (nbits w : Nat) :
    (s.withFetchWord nbits w).kr = s.kr := rfl
@[simp] theorem withFetchWord_opr (s : State) (nbits w : Nat) :
    (s.withFetchWord nbits w).opr = s.opr := rfl
@[simp] theorem withFetchWord_cmdWritten (s : State) (nbits w : Nat) :
    (s.withFetchWord nbits w).cmdWritten = true := rfl
@[simp] theorem withFetchWord_blkWritten (s : State) (nbits w : Nat) :
    (s.withFetchWord nbits w).blkWritten = true := rfl
@[simp] theorem withFetchWord_keyWritten (s : State) (nbits w : Nat) :
    (s.withFetchWord nbits w).keyWritten = true := rfl
@[simp] theorem withFetchWord_startFault (s : State) (nbits w : Nat) :
    (s.withFetchWord nbits w).startFault = s.startFault := rfl
@[simp] theorem withFetchWord_host (s : State) (nbits w : Nat) :
    (s.withFetchWord nbits w).host = { action := .start, window := none } :: s.host := rfl
@[simp] theorem withFetchWord_reads (s : State) (nbits w : Nat) :
    (s.withFetchWord nbits w).reads = s.reads := rfl
@[simp] theorem withFetchWord_window (s : State) (nbits w : Nat) :
    (s.withFetchWord nbits w).window = s.window := rfl

end Sys2Proof.Machine
end

