-- ==== Sys2Proof/Laws/Engine.lean ====
section
/-! SUPPORT. Laws/Engine.lean: what a move of the engine, a window of moves and an acceptance can do, said once each. -/

namespace Sys2Proof.Machine

variable (t : Tables)

/-! ### One move -/

@[simp] theorem advance_idle {s : State} (h : s.ph = .idle) : advance t s = s := by simp [advance, h]

/-- Everything one move of the engine can do, with the guard of each case. -/
theorem advance_cases (s : State) :
    (s.ph = .idle ∧ advance t s = s) ∨
    (s.ph = .runEnc ∧ s.rc.val < 16 ∧ advance t s = endRound (encRound t s.work s.kr) s) ∨
    (s.ph = .runEnc ∧ s.rc.val = 16 ∧ advance t s = complete (setWork (keyXor s.work s.kr) s)) ∨
    (s.ph = .runDec ∧ s.rc.val < 16 ∧ ∃ b, decRound t (decInput s) s.kr = .ok b ∧ advance t s = endRound b s) ∨
    (s.ph = .runDec ∧ s.rc.val < 16 ∧ decRound t (decInput s) s.kr = .error .corruptTable ∧
      advance t s = takeError .corruptTable (setWork (decInput s) s)) ∨
    (s.ph = .runDec ∧ s.rc.val = 16 ∧ advance t s = complete s) := by
  have hr : s.rc.val < 16 ∨ s.rc.val = 16 := by omega
  cases hp : s.ph with
  | idle => simp [advance, hp]
  | runEnc =>
    rcases hr with hr | hr
    · simp [advance, hp, advanceEnc, hr]
    · simp [advance, hp, advanceEnc, hr]
  | runDec =>
    rcases hr with hr | hr
    · cases hd : decRound t (decInput s) s.kr with
      | ok b => simp [advance, hp, advanceDec, hr, hd]
      | error e =>
        have he := decRound_error t _ _ hd
        subst he
        simp [advance, hp, advanceDec, hr, hd]
    · simp [advance, hp, advanceDec, hr]

/-- The round counter counts a round without wrapping. -/
theorem rc_succ_val {r : Fin 17} (h : r.val < 16) : (r + 1).val = r.val + 1 := by
  rw [Fin.val_add]; simp; omega

@[simp] theorem sameHostSide_refl (s : State) : sameHostSide s s := by simp [sameHostSide]

theorem sameHostSide_trans {a b c : State} (h1 : sameHostSide a b) (h2 : sameHostSide b c) : sameHostSide a c := by
  simp_all [sameHostSide]

/-- A move of the engine leaves the host's side alone, and the latches `KR` and `OPR` (R11, R33). -/
theorem advance_keeps (s : State) :
    sameHostSide s (advance t s) ∧ (advance t s).kr = s.kr ∧ (advance t s).opr = s.opr := by
  rcases advance_cases t s with ⟨-, e⟩ | ⟨-, -, e⟩ | ⟨-, -, e⟩ | ⟨-, -, b, -, e⟩ | ⟨-, -, -, e⟩ | ⟨-, -, e⟩ <;>
    rw [e] <;> simp [sameHostSide]

/-- A move depends on the engine's own state alone (R34, R244). -/
theorem advance_congr {s u : State} (h : sameEngine s u) : sameEngine (advance t s) (advance t u) := by
  obtain ⟨h1, h2, h3, h4, h5, h6, h7⟩ := h
  have hd : decInput u = decInput s := by simp [decInput, h3, h5, h6]
  cases hp : s.ph with
  | idle => simp [advance, sameEngine, *]
  | runEnc =>
    simp only [advance, h4, hp, advanceEnc, h5, h3, h6]
    split <;> simp [sameEngine, *]
  | runDec =>
    simp only [advance, h4, hp, advanceDec, h5, h6, hd]
    split
    · split <;> simp [sameEngine, *]
    · simp [sameEngine, *]

/-! ### Windows of moves -/

@[simp] theorem advanceN_zero (s : State) : advanceN t 0 s = s := rfl

theorem advanceN_succ (n : Nat) (s : State) : advanceN t (n + 1) s = advanceN t n (advance t s) := rfl

theorem advanceN_add (m n : Nat) (s : State) : advanceN t (m + n) s = advanceN t n (advanceN t m s) := by
  induction m generalizing s with
  | zero => simp
  | succ m ih => rw [Nat.succ_add, advanceN_succ, ih, advanceN_succ]

@[simp] theorem advanceN_idle (n : Nat) {s : State} (h : s.ph = .idle) : advanceN t n s = s := by
  induction n with
  | zero => rfl
  | succ n ih => rw [advanceN_succ, advance_idle t h, ih]

theorem advanceN_keeps (n : Nat) (s : State) :
    sameHostSide s (advanceN t n s) ∧ (advanceN t n s).kr = s.kr ∧ (advanceN t n s).opr = s.opr := by
  induction n generalizing s with
  | zero => simp
  | succ n ih =>
    obtain ⟨h1, h2, h3⟩ := advance_keeps t s
    obtain ⟨g1, g2, g3⟩ := ih (advance t s)
    exact ⟨sameHostSide_trans h1 g1, g2.trans h2, g3.trans h3⟩

theorem advanceN_congr (n : Nat) {s u : State} (h : sameEngine s u) :
    sameEngine (advanceN t n s) (advanceN t n u) := by
  induction n generalizing s u with
  | zero => exact h
  | succ n ih => exact ih (advance_congr t h)

/-- A window is some number of moves. -/
theorem runWindow_eq (s : State) : ∃ n, runWindow t s = advanceN t n s := by
  cases h : s.window with
  | none => exact ⟨movesToEnd, by simp [runWindow, h]⟩
  | some n => exact ⟨n, by simp [runWindow, h]⟩

@[simp] theorem runWindow_idle {s : State} (h : s.ph = .idle) : runWindow t s = s := by
  obtain ⟨n, e⟩ := runWindow_eq t s
  rw [e, advanceN_idle t n h]

theorem runWindow_keeps (s : State) :
    sameHostSide s (runWindow t s) ∧ (runWindow t s).kr = s.kr ∧ (runWindow t s).opr = s.opr := by
  obtain ⟨n, e⟩ := runWindow_eq t s
  rw [e]
  exact advanceN_keeps t n s

theorem runWindow_congr {s u : State} (h : sameEngine s u) (hw : u.window = s.window) :
    sameEngine (runWindow t s) (runWindow t u) := by
  cases hs : s.window with
  | none => simpa [runWindow, hs, hw.trans hs] using advanceN_congr t movesToEnd h
  | some n => simpa [runWindow, hs, hw.trans hs] using advanceN_congr t n h

/-- A property of the engine that one move keeps is kept by a window of moves. -/
theorem runWindow_induct {P : State → Prop} (hP : ∀ s, P s → P (advance t s)) {s : State} (h : P s) :
    P (runWindow t s) := by
  obtain ⟨n, e⟩ := runWindow_eq t s
  rw [e]
  clear e
  induction n generalizing s with
  | zero => exact h
  | succ n ih => exact ih (hP s h)

/-! ### Acceptance and the commands -/

/-- Everything an acceptance can do (R37). -/
theorem accept_cases (i : Instr) (s : State) :
    (∃ b k, s.blkIn = b.toList ∧ s.keyIn = k.toList ∧ accept i s = loadOperands i b k (latchCommand i s)) ∨
    ((s.blkIn.length ≠ 16 ∨ s.keyIn.length ≠ 16) ∧
      accept i s = takeError .invalidBlockSize (latchCommand i s)) := by
  by_cases hb : s.blkIn.length = 16
  · by_cases hk : s.keyIn.length = 16
    · left
      refine ⟨⟨s.blkIn.toArray, by simpa using hb⟩, ⟨s.keyIn.toArray, by simpa using hk⟩, by simp, by simp, ?_⟩
      simp [accept, blockOfBytes, hb, hk]
    · right
      simp [accept, blockOfBytes_eq_none hk, hk]
  · right
    simp [accept, blockOfBytes_eq_none hb, hb]

/-- Acceptance of operands given as blocks. -/
theorem accept_blocks (i : Instr) {s : State} {b k : Block} (hb : s.blkIn = b.toList) (hk : s.keyIn = k.toList) :
    accept i s = loadOperands i b k (latchCommand i s) := by
  simp [accept, hb, hk]

theorem accept_keeps (i : Instr) (s : State) : sameHostSide s (accept i s) ∧ (accept i s).opr = encode i := by
  rcases accept_cases i s with ⟨b, k, -, -, e⟩ | ⟨-, e⟩ <;> rw [e] <;> simp [sameHostSide]

/-- A command at an idle engine is its acceptance and a window of moves. -/
theorem runCommand_idle (i : Instr) {s : State} (h : s.ph = .idle) :
    runCommand t i s = .next (runWindow t (accept i s)) := by
  simp [runCommand, h]

theorem runCommand_busy (i : Instr) {s : State} (h : s.ph ≠ .idle) :
    runCommand t i s = .refused .startWhileBusy := by
  cases hp : s.ph with
  | idle => exact absurd hp h
  | runEnc => simp [runCommand, hp]
  | runDec => simp [runCommand, hp]

/-- Everything a command that answers a next state has done. -/
theorem runCommand_next {i : Instr} {s s' : State} (h : runCommand t i s = .next s') :
    s.ph = .idle ∧ s' = runWindow t (accept i s) := by
  cases hp : s.ph <;> simp_all [runCommand]

/-- exec is the command over the hardware's tables, whichever arm. -/
theorem exec_eq (i : Instr) (s : State) : exec i s = runCommand Config.tables i s := by
  cases i <;> rfl

end Sys2Proof.Machine
end

