-- ==== Sys2Proof/Laws/Host.lean ====
section
/-! SUPPORT. Laws/Host.lean: what one step of host and engine together can do, said once. -/

namespace Sys2Proof.Machine

variable (t : Tables) (run : Instr → State → Result)

/-- With nothing left for the host to do, a step is a move of the engine. -/
theorem stepIn_nil {s : State} (h : s.host = []) : stepIn t run s = .next (advance t s) := by
  simp [stepIn, h]

theorem stepIn_cons {s : State} {a : HostAction} {w : Option Nat} {rest : List HostEntry}
    (h : s.host = { action := a, window := w } :: rest) :
    stepIn t run s = doAction t run a s (nextAction rest w s) := by
  simp [stepIn, h]

/-- The host's START at an idle engine, its operands written (R28, R37). -/
theorem doStart_idle {s s1 : State} (h : s.ph = .idle) (hw : operandsWritten s = true) :
    doStart t run s s1 = run (decodeCmd s.cmd) s1 := by
  simp [doStart, h, hw]

/-- The host's START at an idle engine, its operands not all written (R241). -/
theorem doStart_unwritten {s s1 : State} (h : s.ph = .idle) (hw : operandsWritten s = false) :
    doStart t run s s1 = .next (recordStart s1) := by
  simp [doStart, h, hw]

@[simp] theorem sameEngine_recordStart (s : State) : sameEngine s (recordStart s) := by simp [sameEngine]

/-- The host's START while a command runs is held (R240). -/
theorem doStart_busy {s s1 : State} (h : s.ph ≠ .idle) : doStart t run s s1 = .next (advance t s) := by
  cases hp : s.ph with
  | idle => exact absurd hp h
  | runEnc => simp [doStart, hp]
  | runDec => simp [doStart, hp]

/-- R76: the reading that READ takes, when it may be taken. -/
theorem readResult_ok {name : Name} {s : State} {r : Reading} (h : readResult name s = .ok r) :
    r = { name := name, status := some s.status, out := if resultValid s.status then s.blkOut else none } := by
  unfold readResult at h
  split at h
  · split at h <;> cases h
    simp [*]
  · cases h
    simp [*]

/-- READ is a fault exactly where STATUS says there is a result and `BLK_OUT` has none, which no consistent state does. -/
theorem readResult_error {name : Name} {s : State} {f : Fault} (h : readResult name s = .error f) :
    f = .readInvalidResult ∧ resultValid s.status = true ∧ s.blkOut = none := by
  unfold readResult at h
  split at h
  · split at h <;> cases h
    simp [*]
  · cases h

@[simp] theorem sameEngine_refl (s : State) : sameEngine s s := by simp [sameEngine]

/-- Everything a step that answers a next state can have done: a move of the engine alone (nothing to do, or the host
held or polling); a host action that leaves the engine alone, and its window of moves; a reset; the fault of R241; or a command. -/
theorem stepIn_next {s s' : State} (h : stepIn t run s = .next s') :
    s' = advance t s ∨
    (∃ e rest u, s.host = e :: rest ∧ e.action ≠ .start ∧ e.action ≠ .reset ∧
      sameEngine (nextAction rest e.window s) u ∧ u.host = rest ∧ u.window = e.window ∧ s' = runWindow t u) ∨
    (∃ e rest, s.host = e :: rest ∧ e.action = .reset ∧ s' = resetEngine (nextAction rest e.window s)) ∨
    (∃ e rest, s.host = e :: rest ∧ e.action = .start ∧ s.ph = .idle ∧ operandsWritten s = false ∧
      s' = recordStart (nextAction rest e.window s)) ∨
    (∃ e rest, s.host = e :: rest ∧ e.action = .start ∧ s.ph = .idle ∧ operandsWritten s = true ∧
      run (decodeCmd s.cmd) (nextAction rest e.window s) = .next s') := by
  cases hh : s.host with
  | nil =>
    rw [stepIn_nil t run hh] at h
    cases h; exact .inl rfl
  | cons e rest =>
    obtain ⟨a, w⟩ := e
    rw [stepIn_cons t run hh] at h
    cases a with
    | writeCmd op =>
      cases h
      exact .inr (.inl ⟨_, _, _, rfl, by simp, by simp, by simp [sameEngine], by simp, by simp, rfl⟩)
    | writeBlk o =>
      simp only [doAction, doWriteBlk] at h
      split at h
      · cases h
        exact .inr (.inl ⟨_, _, _, rfl, by simp, by simp, by simp [sameEngine], by simp, by simp, rfl⟩)
      · cases h
    | writeKey bs =>
      cases h
      exact .inr (.inl ⟨_, _, _, rfl, by simp, by simp, by simp [sameEngine], by simp, by simp, rfl⟩)
    | start =>
      by_cases hp : s.ph = .idle
      · by_cases hw : operandsWritten s = true
        · simp only [doAction, doStart_idle t run hp hw] at h
          exact .inr (.inr (.inr (.inr ⟨_, _, rfl, rfl, hp, hw, h⟩)))
        · have hw' : operandsWritten s = false := by simpa using hw
          simp only [doAction, doStart_unwritten t run hp hw'] at h
          cases h
          exact .inr (.inr (.inr (.inl ⟨_, _, rfl, rfl, hp, hw', rfl⟩)))
      · simp only [doAction, doStart_busy t run hp] at h
        cases h; exact .inl rfl
    | readStatus name =>
      simp only [doAction, doReadStatus] at h
      split at h
      · cases h
        exact .inr (.inl ⟨_, _, _, rfl, by simp, by simp, by simp [sameEngine], by simp, by simp, rfl⟩)
      · cases h
    | readOut name =>
      simp only [doAction, doReadOut] at h
      split at h
      · cases h
        exact .inr (.inl ⟨_, _, _, rfl, by simp, by simp, by simp [sameEngine], by simp, by simp, rfl⟩)
      · cases h
    | wait =>
      simp only [doAction, doWait] at h
      split at h
      · split at h
        · cases h
          exact .inr (.inl ⟨_, _, _, rfl, by simp, by simp, by simp [sameEngine], by simp, by simp, rfl⟩)
        · cases h; exact .inl rfl
      · cases h
    | read name =>
      simp only [doAction, doRead] at h
      split at h
      · split at h
        · cases h
          exact .inr (.inl ⟨_, _, _, rfl, by simp, by simp, by simp [sameEngine], by simp, by simp, rfl⟩)
        · cases h
      · cases h
    | reset =>
      cases h
      exact .inr (.inr (.inl ⟨_, _, rfl, rfl, rfl⟩))

/-! ### Runs -/

@[simp] theorem core_run_zero (s : State) : Host.Core.run Sys2Proof.core 0 s = .next s := rfl

/-- A run that begins with a step to a next state goes on from there. -/
theorem core_run_succ (n : Nat) {s s' : State} (h : step s = .next s') :
    Host.Core.run Sys2Proof.core (n + 1) s = Host.Core.run Sys2Proof.core n s' := by
  have hc : Sys2Proof.core.step s = .next s' := h
  simp [Host.Core.run, hc]

end Sys2Proof.Machine
end

