-- ==== Sys2Proof/Laws/PerInstr.lean ====
section
/-! SUPPORT. Laws/PerInstr.lean: a fact about every instruction as syntax, one lemma per constructor. -/

namespace Sys2Proof.Laws.Encoding

/-- R71, R73: the instruction is well-formed, and its command word, under the opcode table's mask 0x1, is not that of
another instruction. -/
def Statement (i : Instr) : Prop :=
  i.wellFormed = true ∧ ∀ j : Instr, (encode j).toNat &&& 0x1 = (encode i).toNat &&& 0x1 → j = i

theorem encrypt : Statement .encrypt := ⟨rfl, fun j h => by cases j <;> first | rfl | exact absurd h (by decide)⟩

theorem decrypt : Statement .decrypt := ⟨rfl, fun j h => by cases j <;> first | rfl | exact absurd h (by decide)⟩

end Sys2Proof.Laws.Encoding
end

