-- ==== Sys2Proof/Tests/Slice0.lean ====
section
/-! SUPPORT. Tests/Slice0.lean: tests of the model against spec/95_test_vectors.md and the rules' own examples (each test
names its section or rule), the smoke tests of the well-formedness checks, and a witness for the hypotheses of every
statement that has some. -/

namespace Sys2Proof.Tests

open Sys2Proof.Machine

/-! ### Helpers -/

/-- An idle engine with operands and a window. -/
def idleWith (blk key : List Byte) (w : Option Nat) : State :=
  { State.reset with
    blkIn := blk, keyIn := key, window := w, cmdWritten := true, blkWritten := true, keyWritten := true }

/-- An engine running a command, `RC` rounds in. -/
def running (ph : Phase) (op : BitVec 1) (rc : Fin 17) : State :=
  { idleWith Block.zero.toList keyKDOC.toList none with ph := ph, opr := op, rc := rc, status := 0b0001, kr := keyKDOC }

/-- An engine whose last command left STATUS and a result. -/
def finished (st : BitVec 4) (out : Option Block) : State :=
  { idleWith Block.zero.toList keyKDOC.toList none with status := st, blkOut := out }

/-- A state whose host has one action to do. -/
def withAction (a : HostAction) (s : State) : State := { s with host := [{ action := a, window := none }] }

/-- A property of the next state, false where there is none. -/
def nextHas (r : Result) (p : State → Bool) : Bool :=
  match r with
  | .next s => p s
  | .fault _ => false
  | .refused _ => false

/-- A fault of a name. -/
def faultsWith (r : Result) (f : Fault) : Bool :=
  match r with
  | .next _ => false
  | .fault g => g == f
  | .refused _ => false

/-- A refusal of a name. -/
def refusedWith (r : Result) (f : Refusal) : Bool :=
  match r with
  | .next _ => false
  | .fault _ => false
  | .refused g => g == f

/-- The value a datapath function answers, if it does not raise. -/
def okBlock (r : Except EngineError Block) : Option Block :=
  match r with
  | .ok b => some b
  | .error _ => none

def ffBlock : Block := Vector.replicate 16 0xFF

/-! ### Decoding (30_encoding.md R70, R71; the words bit by bit) -/

theorem test_decode_encrypt_word : decodeTableWord 8 0b00000000 = some .encrypt := by decide
theorem test_decode_decrypt_word : decodeTableWord 8 0b00000001 = some .decrypt := by decide
/-- R70: a decoder reads only bit 0. -/
theorem test_decode_reads_only_bit_zero : decodeTableWord 8 0b11111110 = some .encrypt := by decide
theorem test_decode_no_bits_rejected : decode [] = .error .noCommandBit := by rfl
/-- 95 §2.1: the scenario key as a port word. -/
theorem test_port_word_of_key : packBlock keyKDOC = 0x1FA23B4C55607D8E9FAABDCED1E2F304#128 := by decide +kernel
theorem test_block_of_port_word : unpackBlock 0x000102030405060708090A0B0C0D0E0F#128 = blockI := by decide +kernel

/-! ### Well-formedness: each check refuses an ill-formed term -/

/-- 95 §6: T2 is refused, `SBOX_T2(0) = SBOX_T2(1)`. -/
theorem test_table_T2_refused : tablesT2.admitted = false := by decide +kernel
/-- 95 §5: 15, 17 and 0 bytes. -/
theorem test_short_block_illformed : lengthOk (List.replicate 15 0) = false := by decide
theorem test_long_key_illformed :
    Command.wellFormed { op := .decrypt, blk := List.replicate 16 0, key := List.replicate 17 0 } = false := by decide
theorem test_odd_hex_illformed : hexLiteralOk ['0', '1', '2'] = false := by decide
theorem test_non_hex_illformed : hexLiteralOk ['0', 'G'] = false := by decide
theorem test_name_illformed : nameOk ['1', 'c'] = false := by decide
/-- R73: every command word is well-formed. -/
theorem test_commands_wellformed : Instr.wellFormed .encrypt = true ∧ Instr.wellFormed .decrypt = true := by decide

/-! ### Datapath vectors (95 §3) -/

theorem test_sub_byte : subByte tablesT1 0x1F = 0x3C ∧ subByte tablesT1 0xFF = 0x5C := by decide +kernel
theorem test_inv_sbox : invSbox tablesT1 0x01 = some 0xF2 ∧ invSbox tablesT1 0xFF = some 0x84 := by decide +kernel
/-- 95 §5: the least preimage, and NONE. -/
theorem test_inv_sbox_least : invSbox tablesT2 0x00 = some 0x00 ∧ invSbox tablesT2 0xFF = none := by decide +kernel
theorem test_col_rot : colRot blockI = #v[8, 9, 10, 11, 12, 13, 14, 15, 0, 1, 2, 3, 4, 5, 6, 7] := by decide +kernel
theorem test_col_rot_inv : colRotInv blockI = colRot blockI := by decide +kernel
theorem test_fixed_swap : fixedSwap blockI = #v[6, 7, 4, 10, 2, 12, 0, 1, 14, 15, 3, 13, 5, 11, 8, 9] := by
  decide +kernel
theorem test_row_rot : rowRot blockI = #v[2, 3, 0, 1, 6, 7, 4, 5, 10, 11, 8, 9, 14, 15, 12, 13] := by decide +kernel
theorem test_row_rot_inv : rowRotInv blockI = rowRot blockI := by decide +kernel
theorem test_pair_mix : pairMix 0x12 0x34 = (0x71, 0x80) ∧ pairMix 0xA5 0x5A = (0x96, 0x69) := by decide +kernel
theorem test_pair_unmix : pairUnmix 0x12 0x34 = (0x05, 0x91) ∧ pairUnmix 0x80 0x00 = (0x20, 0x00) := by decide +kernel
theorem test_block_mix : blockMix blockI =
    #v[0x00, 0x20, 0x00, 0x21, 0x01, 0x29, 0x09, 0x24, 0x04, 0x2C, 0x0C, 0x25, 0x05, 0x2D, 0x0D, 0x52] := by
  decide +kernel
theorem test_block_unmix : blockUnmix blockI =
    #v[0x00, 0x00, 0x84, 0x80, 0x04, 0x0A, 0x8E, 0x8A, 0x0E, 0x02, 0x86, 0x82, 0x06, 0x08, 0x8E, 0xC8] := by
  decide +kernel
theorem test_key_xor : keyXor blockI keyKDOC =
    #v[0x1F, 0xA3, 0x39, 0x4F, 0x51, 0x65, 0x7B, 0x89, 0x97, 0xA3, 0xB7, 0xC5, 0xDD, 0xEF, 0xFD, 0x0B] := by
  decide +kernel
theorem test_mask_xor : maskXor tablesT1 blockI =
    #v[0x00, 0x10, 0x20, 0x30, 0x40, 0x50, 0x60, 0x70, 0x80, 0x90, 0xA0, 0xB0, 0xC0, 0xD0, 0xE0, 0xF0] := by
  decide +kernel
theorem test_sub_block : subBlock tablesT1 keyKDOC =
    #v[0x3C, 0xD1, 0x00, 0x77, 0xB6, 0x03, 0xCE, 0x45, 0xBC, 0x09, 0x8E, 0x05, 0x1A, 0x91, 0x08, 0x7F] := by
  decide +kernel
theorem test_inv_sub_block : okBlock (invSubBlock tablesT1
    #v[0x3C, 0xD1, 0x00, 0x77, 0xB6, 0x03, 0xCE, 0x45, 0xBC, 0x09, 0x8E, 0x05, 0x1A, 0x91, 0x08, 0x7F]) =
    some keyKDOC := by
  decide +kernel
theorem test_fwd_pipe : fwdPipe tablesT1 blockI =
    #v[0x1A, 0xE4, 0x84, 0xAF, 0x65, 0x4E, 0xD1, 0x69, 0x5B, 0xFB, 0xCD, 0x35, 0xD5, 0xA6, 0x3B, 0x4E] := by
  decide +kernel
theorem test_inv_pipe : invPipe tablesT1 blockI =
    #v[0x7D, 0xEB, 0x09, 0xE0, 0x6A, 0xC9, 0x74, 0x00, 0xBD, 0x21, 0x14, 0x17, 0x5D, 0xF6, 0x43, 0xC8] := by
  decide +kernel
theorem test_enc_round : encRound tablesT1 Block.zero keyKDOC =
    #v[0x2E, 0xC0, 0x08, 0xB7, 0x79, 0xC0, 0xDB, 0x55, 0x6E, 0x4B, 0x6C, 0x1C, 0xD4, 0x84, 0x08, 0x5E] := by
  decide +kernel
theorem test_dec_round : okBlock (decRound tablesT1
    #v[0x2E, 0xC0, 0x08, 0xB7, 0x79, 0xC0, 0xDB, 0x55, 0x6E, 0x4B, 0x6C, 0x1C, 0xD4, 0x84, 0x08, 0x5E] keyKDOC) =
    some Block.zero := by
  decide +kernel

/-! ### Cipher vectors (95 §4) -/

/-- T1, the zero block under KDOC: the whole cipher. -/
theorem test_encrypt_T1 : encryptBlock tablesT1 Block.zero keyKDOC =
    #v[0x78, 0xDF, 0x7C, 0x3B, 0xFF, 0xF8, 0x5D, 0xA3, 0x2A, 0x40, 0x1F, 0xDF, 0x54, 0x92, 0x29, 0x84] := by
  decide +kernel
/-- T1, round-boundary values (R185): the first round on that ciphertext gives `E_15`. -/
theorem test_decrypt_round_one_T1 : okBlock (decRounds tablesT1
    #v[0x78, 0xDF, 0x7C, 0x3B, 0xFF, 0xF8, 0x5D, 0xA3, 0x2A, 0x40, 0x1F, 0xDF, 0x54, 0x92, 0x29, 0x84] keyKDOC 1) =
    some #v[0x2D, 0x68, 0xD7, 0x09, 0xD7, 0x39, 0xA1, 0xA1, 0x14, 0x9A, 0x36, 0x4D, 0x01, 0x67, 0x25, 0xD2] := by
  decide +kernel

/-! ### Commands and errors (95 §5; R37, R38, R200, R201) -/

/-- 95 §5: a 15-byte block: `STATUS = 0b0110`, `BLK_OUT = INVALID`. -/
theorem test_encrypt_short_block :
    nextHas (exec .encrypt (idleWith (List.replicate 15 0) keyKDOC.toList none))
      (fun s => s.status == 0b0110 && s.blkOut == none && s.ph == .idle) = true := by decide +kernel
/-- 95 §5: a 17-byte key under DECRYPT. -/
theorem test_decrypt_long_key :
    nextHas (exec .decrypt (idleWith Block.zero.toList (List.replicate 17 0) none))
      (fun s => s.status == 0b0110 && s.blkOut == none && s.opr == 1) = true := by decide +kernel
/-- 95 §5, T2 with the check disabled: DECRYPT raises in round 1. -/
theorem test_decrypt_T2_corrupt :
    nextHas (decryptIn tablesT2 (idleWith Block.zero.toList Block.zero.toList none))
      (fun s => s.status == 0b1010 && s.blkOut == none && s.ph == .idle) = true := by decide +kernel
/-- R37, R242: just accepted: BUSY, no result, operands latched. -/
theorem test_encrypt_accepted :
    nextHas (exec .encrypt (idleWith blockI.toList keyKDOC.toList (some 0)))
      (fun s => s.status == 0b0001 && s.work == blockI && s.kr == keyKDOC && s.ph == .runEnc) = true := by
  decide +kernel
theorem test_encrypt_refused_while_busy :
    refusedWith (exec .encrypt (running .runDec 1 3)) .startWhileBusy = true := by decide
/-- 95 §4, round-boundary values: after round 1 under T1. -/
theorem test_encrypt_round_one_T1 :
    nextHas (encryptIn tablesT1 (idleWith Block.zero.toList keyKDOC.toList (some 1)))
      (fun s => s.rc == 1 && s.work ==
        #v[0x2E, 0xC0, 0x08, 0xB7, 0x79, 0xC0, 0xDB, 0x55, 0x6E, 0x4B, 0x6C, 0x1C, 0xD4, 0x84, 0x08, 0x5E]) = true := by
  decide +kernel

/-! ### The host's checks: a word of the table runs as the first instruction after reset -/

theorem test_step_runs_encrypt_word : nextHas (step (State.reset.withFetchWord 8 0)) (fun _ => true) = true := by decide
theorem test_step_runs_decrypt_word : nextHas (step (State.reset.withFetchWord 8 1)) (fun _ => true) = true := by decide

/-! ### Host protocol -/

/-- R241, 93 item 11: recorded as a fault, never a value. -/
theorem test_start_after_reset_recorded :
    nextHas (step (withAction .start State.reset))
      (fun s => s.startFault && s.status == 0b0000 && s.ph == .idle && s.blkOut == none) = true := by decide
/-- R243: after reset, while busy, after an error. -/
theorem test_read_out_after_reset_faults :
    faultsWith (step (withAction (.readOut ['r']) State.reset)) .readInvalidResult = true := by decide
/-- R231, 95 §7 P4: reset during a command. -/
theorem test_reset_during_command :
    nextHas (step (withAction .reset (running .runEnc 0 5)))
      (fun s => s.status == 0b0000 && s.blkOut == none && s.ph == .idle) = true := by decide
/-- R76: READ after an error binds the status and no result. -/
theorem test_read_after_error :
    nextHas (step (withAction (.read ['e']) (finished 0b0110 none)))
      (fun s => s.reads == [{ name := ['e'], status := some 0b0110, out := none }]) = true := by decide
/-- 93 item 14. -/
theorem test_reserved_status_refused :
    refusedWith (step (withAction (.readStatus ['e']) (finished 0b1110 none))) .reservedStatus = true := by decide

/-! ### Host language (R76, R77; 95 §7) -/

/-- 95 §7 P2, with its comment, a short operand and a bound name. -/
def textP2 : List Char :=
  "RESET\nENC 4142434445464748494A, 1FA23B4C55607D8E9FAABDCED1E2F304 ; 10 bytes\nWAIT\nREAD c\nDEC c.out, 1fa23b4c55607d8e9faabdced1e2f304\n".toList

theorem test_parse_P2 : (match parseProgram textP2 with
    | .ok p => p == [.step .reset,
        .step (.enc (.bytes [0x41, 0x42, 0x43, 0x44, 0x45, 0x46, 0x47, 0x48, 0x49, 0x4A]) keyKDOC.toList),
        .step .wait, .step (.read ['c']), .step (.dec (.out ['c']) keyKDOC.toList)]
    | .error _ => false) = true := by decide +kernel
/-- 95 §7 P3: `ENCW c0, .., ..`, where `c0` is a name to bind. -/
theorem test_parse_encw : (match parseProgram "ENCW c0, 41, 1F".toList with
    | .ok p => p == [.encw ['c', '0'] (.bytes [0x41]) [0x1F]]
    | .error _ => false) = true := by decide +kernel
theorem test_parse_odd_digits_rejected : (match parseProgram "ENC 414, 1F".toList with
    | .ok _ => false
    | .error e => e == .oddHexDigits) = true := by decide +kernel

/-! ### Witnesses: states and operands that meet the hypotheses of each statement that has some -/

theorem t0_admitted : tablesT0.admitted = true := by
  simp only [Tables.admitted, tablesT0, List.all_eq_true, Bool.or_eq_true, beq_iff_eq, bne_iff_ne]
  exact fun a _ b _ => em (a = b)

theorem t2_not_admitted : tablesT2.admitted = false := test_table_T2_refused

theorem witness_DecodeEncodeCommand :
    (Command.wellFormed { op := .encrypt, blk := blockI.toList, key := keyKDOC.toList } = true) ∧
    (Command.wellFormed { op := .decrypt, blk := blockI.toList, key := [] } = false) := by decide

theorem witness_StepRunsIssuedCommand :
    (withAction .start (idleWith [] [] none)).host = { action := .start, window := none } :: [] ∧
    (withAction .start (idleWith [] [] none)).ph = .idle ∧
    operandsWritten (withAction .start (idleWith [] [] none)) = true := by decide

theorem witness_StepRunsFetchedWord : decodeTableWord 8 1 = some .decrypt := by decide

theorem witness_AdmittedIffPermutation : tablesT0.admitted = true ∧ tablesT2.admitted = false :=
  ⟨t0_admitted, t2_not_admitted⟩

/-- For SubstitutionInverseLaw, InvSboxIsLeastPreimage, RoundInverses and CipherRoundTrip. -/
theorem witness_admitted_tables : ∃ t : Tables, t.admitted = true := ⟨tablesT0, t0_admitted⟩

theorem witness_LookupImplementationsAgree :
    tablesT0.admitted = true ∧ (∀ b k : Byte, (some b : Option Byte) = some k → tablesT0.sbox k = b) ∧
    (∀ b : Byte, (some b : Option Byte).isSome = true) :=
  ⟨t0_admitted, fun _ _ h => (Option.some.inj h).symm, fun _ => rfl⟩

/-- Blocks that agree up to byte 14 and differ in byte 15. -/
theorem witness_BlockMixRunsLeftToRight :
    (∀ i : Fin 16, i ≤ 14 → Block.zero[i] = (Block.zero.set 15 1)[i]) ∧ (13 : Fin 16) < 14 ∧
    Block.zero ≠ Block.zero.set 15 1 := by decide +kernel

/-- A byte without a preimage, and a table where every byte has one. -/
theorem witness_InvSubBlockLaw :
    (∃ i : Fin 16, ∀ k : Byte, tablesT2.sbox k ≠ ffBlock[i]) ∧
    (∀ i : Fin 16, ∃ k : Byte, tablesT0.sbox k = blockI[i]) :=
  ⟨⟨0, by decide +kernel⟩, fun i => ⟨blockI[i], rfl⟩⟩

theorem witness_RoundValuesMirrored : tablesT0.admitted = true ∧ 0 ≤ 16 ∧ 16 ≤ 16 := ⟨t0_admitted, by omega, by omega⟩

theorem witness_FlatMicroSequence :
    tablesT0.admitted = true ∧ (∃ T, microStep tablesT0 keyKDOC .keyXor blockI = .ok T) ∧
    (1 ≤ 1 ∧ 1 ≤ 145) ∧ (1 ≤ 145 ∧ 145 ≤ 145) :=
  ⟨t0_admitted, ⟨_, rfl⟩, by omega, by omega⟩

/-- For EncryptCompletes, DecryptCompletes and InterfaceRoundTrip, with both kinds of window. -/
theorem witness_CommandCompletes :
    (idleWith blockI.toList keyKDOC.toList none).ph = .idle ∧
    (idleWith blockI.toList keyKDOC.toList none).blkIn = blockI.toList ∧
    (idleWith blockI.toList keyKDOC.toList none).keyIn = keyKDOC.toList ∧
    (idleWith blockI.toList keyKDOC.toList none).window = none ∧
    (∃ n, (idleWith blockI.toList keyKDOC.toList (some 17)).window = some n ∧ 17 ≤ n) :=
  ⟨rfl, rfl, rfl, rfl, 17, rfl, by omega⟩

/-- For EncryptAtRoundBoundary and DecryptAtRoundBoundary, at both ends of the range. -/
theorem witness_AtRoundBoundary :
    (idleWith blockI.toList keyKDOC.toList (some 0)).window = some (0 : Fin 17).val ∧
    (idleWith blockI.toList keyKDOC.toList (some 16)).window = some (16 : Fin 17).val ∧
    (idleWith blockI.toList keyKDOC.toList (some 16)).ph = .idle := by decide

theorem witness_WrongLengthTakesError :
    (idleWith (List.replicate 15 0) keyKDOC.toList none).ph = .idle ∧
    (idleWith (List.replicate 15 0) keyKDOC.toList none).blkIn.length ≠ 16 ∧
    (idleWith blockI.toList (List.replicate 17 0) none).keyIn.length ≠ 16 := by decide

theorem t2_decrypt_raises : decryptBlock tablesT2 Block.zero Block.zero = .error .corruptTable := by
  have h : okBlock (decryptBlock tablesT2 Block.zero Block.zero) = none := by decide +kernel
  cases hd : decryptBlock tablesT2 Block.zero Block.zero with
  | ok b => rw [hd] at h; cases h
  | error e => cases e <;> first | rfl | exact absurd hd (by decide +kernel)

theorem t2_round_one_raises : decRounds tablesT2 Block.zero Block.zero 1 = .error .corruptTable := by
  have h : okBlock (decRounds tablesT2 Block.zero Block.zero 1) = none := by decide +kernel
  cases hd : decRounds tablesT2 Block.zero Block.zero 1 with
  | ok b => rw [hd] at h; cases h
  | error e => rw [decRound_error tablesT2 _ _ (show decRound tablesT2 _ _ = .error e from hd)]

/-- 95 §5: T2's DECRYPT raises in round 1 (r = 0); no window, the least that reaches the round, and one that does not. -/
theorem witness_CorruptTableAborts :
    ((idleWith Block.zero.toList Block.zero.toList none).ph = .idle ∧
      (idleWith Block.zero.toList Block.zero.toList (some 1)).window = some 1 ∧ 0 < 1 ∧
      (idleWith Block.zero.toList Block.zero.toList (some 0)).window = some 0 ∧ 0 ≤ 0) ∧
    decRounds tablesT2 Block.zero Block.zero 0 = .ok (keyXor Block.zero Block.zero) ∧
    decRounds tablesT2 Block.zero Block.zero (0 + 1) = .error .corruptTable ∧
    decryptBlock tablesT2 Block.zero Block.zero = .error .corruptTable ∧
    ∃ s', encryptIn tablesT2 (idleWith Block.zero.toList Block.zero.toList none) = .next s' :=
  ⟨⟨rfl, rfl, by omega, rfl, by omega⟩, rfl, t2_round_one_raises, t2_decrypt_raises, _, rfl⟩

theorem witness_CommandFrame :
    (∃ s', exec .encrypt (idleWith blockI.toList keyKDOC.toList none) = .next s') ∧
    (∃ s', exec .decrypt (idleWith blockI.toList keyKDOC.toList (some 3)) = .next s') ∧
    (idleWith blockI.toList keyKDOC.toList none).blkIn.length = 16 ∧
    (idleWith blockI.toList keyKDOC.toList none).keyIn.length = 16 :=
  ⟨⟨_, rfl⟩, ⟨_, rfl⟩, by decide, by decide⟩

/-- Two idle engines with the same operands, one of them after an error; and one with another window. -/
theorem witness_ResultDependsOnOperandsOnly :
    (finished 0b0000 none).ph = .idle ∧ (finished 0b0110 none).ph = .idle ∧
    (finished 0b0000 none).blkIn = (finished 0b0110 none).blkIn ∧
    (finished 0b0000 none).keyIn = (finished 0b0110 none).keyIn ∧
    (finished 0b0000 none).window = (finished 0b0110 none).window ∧
    (∃ s', exec .encrypt (finished 0b0000 none) = .next s') ∧
    (∃ s', exec .encrypt (finished 0b0110 none) = .next s') ∧
    (∃ s', exec .encrypt { finished 0b0110 none with window := some 3 } = .next s') ∧
    finished 0b0000 none ≠ finished 0b0110 none :=
  ⟨rfl, rfl, rfl, rfl, rfl, ⟨_, rfl⟩, ⟨_, rfl⟩, ⟨_, rfl⟩, by decide⟩

theorem witness_ResultIndependentOfLatency :
    (∃ s₁, exec .decrypt { State.reset with window := some 5 } = .next s₁) ∧
    (∃ s₂, exec .decrypt { State.reset with window := none } = .next s₂) := ⟨⟨_, rfl⟩, ⟨_, rfl⟩⟩

theorem witness_ResetAbandonsCommand :
    (withAction .reset (running .runDec 1 7)).host = { action := .reset, window := none } :: [] := by decide

/-- Consistent states in each phase, with a step to a next state; none reports CorruptTableError. -/
theorem witness_StepKeeps :
    (State.reset.consistent = true ∧ State.reset.noCorruptTable ∧ ∃ s', step State.reset = .next s') ∧
    ((running .runEnc 0 16).consistent = true ∧ (running .runEnc 0 16).noCorruptTable ∧
      ∃ s', step (running .runEnc 0 16) = .next s') ∧
    ((running .runDec 1 0).consistent = true ∧ (running .runDec 1 0).noCorruptTable ∧
      ∃ s', step (running .runDec 1 0) = .next s') ∧
    (finished 0b0010 (some blockI)).consistent = true :=
  ⟨⟨by decide, by unfold State.noCorruptTable; decide, _, rfl⟩, ⟨by decide, by unfold State.noCorruptTable; decide, _, rfl⟩,
    ⟨by decide, by unfold State.noCorruptTable; decide, _, rfl⟩, by decide⟩

/-- With the operands written, and after a reset's marks. -/
theorem witness_StartHeldWhileBusy :
    (withAction .start (running .runEnc 0 4)).ph ≠ .idle ∧
    (withAction .start (running .runEnc 0 4)).host = { action := .start, window := none } :: [] ∧
    operandsWritten (withAction .start (running .runEnc 0 4)) = true ∧
    (withAction .start { State.reset with ph := .runEnc }).ph ≠ .idle ∧
    operandsWritten (withAction .start { State.reset with ph := .runEnc }) = false := by decide

theorem witness_StartBeforeOperandsRecorded :
    (withAction .start State.reset).ph = .idle ∧
    (withAction .start State.reset).host = { action := .start, window := none } :: [] ∧
    (withAction .start State.reset).cmdWritten = false ∧ (withAction .start State.reset).blkWritten = false ∧
    (withAction .start State.reset).keyWritten = false ∧
    (withAction .start State.reset).blankUntilWritten :=
  ⟨rfl, rfl, rfl, rfl, rfl, fun _ => ⟨rfl, rfl, rfl⟩⟩

/-- At reset, and with a result once all three are written. -/
theorem witness_StepKeepsBlankUntilWritten :
    (State.reset.blankUntilWritten ∧ ∃ s', step State.reset = .next s') ∧
    ((finished 0b0010 (some blockI)).blankUntilWritten ∧ ∃ s', step (finished 0b0010 (some blockI)) = .next s') :=
  ⟨⟨fun _ => ⟨rfl, rfl, rfl⟩, _, rfl⟩, fun h => absurd h (by decide), _, rfl⟩

/-- A program's first four steps from reset answer next states: CMD, BLK_IN and KEY_IN written, START taken up. -/
theorem witness_HostProgramsWriteBeforeStart :
    nextHas (Host.Core.run Sys2Proof.core 4 (loadProgram [.step (.enc (.bytes [1]) [2])] [] State.reset))
      (fun s => s.host == [] && s.status == 0b0110) = true := by decide

/-- A running command, a completed one, and none since reset. -/
theorem witness_WaitEnds :
    ((withAction .wait (running .runDec 1 0)).consistent = true ∧ (withAction .wait (running .runDec 1 0)).ph ≠ .idle ∧
      (withAction .wait (running .runDec 1 0)).host = { action := .wait, window := none } :: []) ∧
    ((withAction .wait (finished 0b0010 (some blockI))).consistent = true ∧ statusDone 0b0010 = true) ∧
    ((withAction .wait State.reset).consistent = true ∧ State.reset.ph = .idle ∧
      statusDone State.reset.status = false) := by decide

theorem witness_EveryCommandCompletes : (running .runEnc 0 0).host = [] := by decide

/-- A running command, no command, an error, and a result. -/
theorem witness_InvalidResultReadFaults :
    ((withAction (.readOut ['r']) (running .runEnc 0 2)).consistent = true ∧
      (withAction (.readOut ['r']) (running .runEnc 0 2)).ph ≠ .idle) ∧
    ((withAction (.readOut ['r']) State.reset).consistent = true ∧ statusDone State.reset.status = false) ∧
    ((withAction (.readOut ['r']) (finished 0b0110 none)).consistent = true ∧ statusErr 0b0110 ≠ errNone) ∧
    ((withAction (.readOut ['r']) (finished 0b0010 (some blockI))).consistent = true ∧ statusDone 0b0010 = true ∧
      statusErr 0b0010 = errNone) := by decide

/-- A read while a command runs, and after an error. -/
theorem witness_StatusReadGivesStatus :
    (withAction (.readStatus ['r']) (running .runEnc 0 2)).consistent = true ∧
    (withAction (.readStatus ['r']) (running .runEnc 0 2)).ph ≠ .idle ∧
    (withAction (.readStatus ['r']) (running .runEnc 0 2)).host =
      { action := .readStatus ['r'], window := none } :: [] ∧
    (withAction (.readStatus ['r']) (finished 0b0110 none)).consistent = true := by decide

/-- The three writes while a command runs; the block as bytes and as a bound result. -/
theorem witness_OperandWritesDoNotReachCommand :
    (withAction (.writeCmd 1) (running .runEnc 0 2)).host = { action := .writeCmd 1, window := none } :: [] ∧
    (withAction (.writeBlk (.bytes [1])) (running .runEnc 0 2)).host =
      { action := .writeBlk (.bytes [1]), window := none } :: [] ∧
    operandBytes (.bytes [1]) (running .runEnc 0 2).reads = some [1] ∧
    operandBytes (.out ['r']) [{ name := ['r'], status := none, out := some blockI }] = some blockI.toList ∧
    (withAction (.writeKey []) (running .runEnc 0 2)).host = { action := .writeKey [], window := none } :: [] := by
  decide

theorem witness_ResultPersists :
    (withAction (.writeKey []) (finished 0b0010 (some blockI))).ph = .idle ∧
    (∀ e rest, (withAction (.writeKey []) (finished 0b0010 (some blockI))).host = e :: rest →
      e.action ≠ .start ∧ e.action ≠ .reset) ∧
    ∃ s', step (withAction (.writeKey []) (finished 0b0010 (some blockI))) = .next s' :=
  ⟨rfl, fun e rest h => by cases h; decide, _, rfl⟩

theorem witness_ReadsHaveNoSideEffect :
    (∃ s', step (withAction (.readStatus ['r']) (running .runEnc 0 2)) = .next s') ∧
    (∃ s', step (withAction (.readOut ['r']) (finished 0b0010 (some blockI))) = .next s') ∧
    (∃ s', step (withAction (.read ['r']) (finished 0b0010 (some blockI))) = .next s') := ⟨⟨_, rfl⟩, ⟨_, rfl⟩, ⟨_, rfl⟩⟩

/-- With a result, and without. -/
theorem witness_ReadBindsResult :
    ((withAction (.read ['r']) (finished 0b0010 (some blockI))).consistent = true ∧ resultValid 0b0010 = true) ∧
    ((withAction (.read ['r']) (finished 0b0110 none)).consistent = true ∧ resultValid 0b0110 = false) := by decide

theorem witness_NameOperand :
    (withAction (.writeBlk (.out ['r'])) State.reset).host =
      { action := .writeBlk (.out ['r']), window := none } :: [] ∧
    boundOut ['r'] State.reset.reads = none ∧
    boundOut ['r'] [{ name := ['r'], status := none, out := some blockI }] = some blockI := by decide

theorem witness_ReservedStatusRefused :
    legalStatus (withAction .wait (finished 0b1110 none)).status = false ∧ statusErr 0b1110 = 3 ∧
    legalStatus (withAction .wait (finished 0b0011 none)).status = false := by decide

theorem witness_HexLiteralRoundTrip :
    ([0xAB] : List Byte) ≠ [] ∧ (['4', 'a', 'F'] : List Char).all isHexDigit = true ∧
    (['4', 'a', 'F'] : List Char).length % 2 = 1 := by decide

end Sys2Proof.Tests
end

section
/-! PROOFS, scope (spec 00_scope.md). First the facts about how long a command runs and what its acceptance reads, which
later proofs share; then the settled statements. -/

namespace Sys2Proof.Machine

variable (t : Tables)

/-! ### Seventeen moves end any command (R186, log entry 6) -/

/-- A move ends the command or counts a round. -/
theorem advance_idle_or_rc (s : State) :
    (advance t s).ph = .idle ∨ (advance t s).rc.val = s.rc.val + 1 := by
  rcases advance_cases t s with
    ⟨hp, e⟩ | ⟨-, hr, e⟩ | ⟨-, -, e⟩ | ⟨-, hr, b, -, e⟩ | ⟨-, -, -, e⟩ | ⟨-, -, e⟩ <;> rw [e]
  · exact .inl hp
  · exact .inr (rc_succ_val hr)
  · exact .inl rfl
  · exact .inr (rc_succ_val hr)
  · exact .inl rfl
  · exact .inl rfl

/-- A command that has counted `RC` rounds ends within `17 - RC` moves. -/
theorem advanceN_ph_idle {n : Nat} {s : State} (h : 17 ≤ s.rc.val + n) : (advanceN t n s).ph = .idle := by
  induction n generalizing s with
  | zero => omega
  | succ n ih =>
    rw [advanceN_succ]
    rcases advance_idle_or_rc t s with hp | hr
    · rw [advanceN_idle t n hp, hp]
    · exact ih (by omega)

/-- Seventeen moves end whatever command runs, however far it is. -/
@[simp] theorem advanceN_seventeen_ph (s : State) : (advanceN t 17 s).ph = .idle :=
  advanceN_ph_idle t (Nat.le_add_left _ _)

/-- Moves made before the seventeen that end a command make no difference. -/
theorem advanceN_seventeen_advanceN (n : Nat) (s : State) :
    advanceN t 17 (advanceN t n s) = advanceN t 17 s := by
  rw [← advanceN_add, Nat.add_comm, advanceN_add, advanceN_idle t n (advanceN_seventeen_ph t s)]

/-! ### Windows, acceptance and exec -/

theorem runWindow_none {s : State} (h : s.window = none) : runWindow t s = advanceN t 17 s := by
  simp [runWindow, h, movesToEnd]

/-- Running on from the end of any window ends where no window would have. -/
theorem advanceN_seventeen_runWindow (s : State) :
    advanceN t 17 (runWindow t s) = advanceN t 17 s := by
  obtain ⟨n, e⟩ := runWindow_eq t s
  rw [e, advanceN_seventeen_advanceN]

@[simp] theorem accept_window (i : Instr) (s : State) : (accept i s).window = s.window := by
  rcases accept_cases i s with ⟨b, k, -, -, e⟩ | ⟨-, e⟩ <;> simp [e]

/-- An acceptance reads the engine and the two operand registers alone (R37). -/
theorem accept_congr (i : Instr) {s u : State} (h : sameEngine s u) (hb : u.blkIn = s.blkIn)
    (hk : u.keyIn = s.keyIn) : sameEngine (accept i s) (accept i u) := by
  obtain ⟨-, -, hwork, -, hrc, hkr, -⟩ := h
  rcases accept_cases i s with ⟨b, k, hsb, hsk, e⟩ | ⟨hlen, e⟩
  · rw [e, accept_blocks i (hb.trans hsb) (hk.trans hsk)]
    simp [sameEngine]
  · have hu : accept i u = takeError .invalidBlockSize (latchCommand i u) := by
      rcases accept_cases i u with ⟨b, k, hub, huk, -⟩ | ⟨-, e'⟩
      · simp [← hb, ← hk, hub, huk] at hlen
      · exact e'
    rw [e, hu]
    simp [sameEngine, hwork, hrc, hkr]

/-- Everything a command that answers a next state has done, at the hardware's tables. -/
theorem exec_next {i : Instr} {s s' : State} (h : exec i s = .next s') :
    s.ph = .idle ∧ s' = runWindow Config.tables (accept i s) := by
  rw [exec_eq] at h
  exact runCommand_next Config.tables h

theorem sameView_of_sameEngine {s u : State} (h : sameEngine s u) : sameView s u := by
  obtain ⟨hout, hstatus, -⟩ := h
  exact ⟨hstatus.symm, hout.symm⟩

/-! ### The settled statements -/

/-- Settles O35: both runs end where 17 moves from acceptance do, since a window's moves before those 17 make no
difference, and acceptance does not read the window. -/
theorem resultIndependentOfLatency : Obligations.ResultIndependentOfLatency := by
  intro i s s₁ s₂ n h₁ h₂
  obtain ⟨-, rfl⟩ := exec_next h₁
  obtain ⟨-, rfl⟩ := exec_next h₂
  have haccept : sameEngine (accept i { s with window := some n }) (accept i { s with window := none }) :=
    accept_congr i (by simp [sameEngine]) rfl rfl
  refine ⟨sameView_of_sameEngine ?_, advanceN_seventeen_ph Config.tables _⟩
  rw [advanceN_seventeen_runWindow, runWindow_none (s := accept i { s with window := none }) _ (by simp)]
  exact advanceN_congr Config.tables 17 haccept

/-- Settles O13: a fact about the eight pairs as written. -/
theorem swapPairsCoverBlock : Obligations.SwapPairsCoverBlock :=
  ⟨rfl, by decide, by decide⟩

end Sys2Proof.Machine
end

section
/-! PROOFS, state (spec 10_state.md). First the rules these and later proofs share: what a window of moves leaves
unchanged, what one step of each host action does, what keeps a state consistent, and when two engines run alike.
Then the settled statements. -/

namespace Sys2Proof.Machine

variable (t : Tables)

/-! ### What a window of moves leaves unchanged, field by field -/

section RunWindowFields

variable (s : State)

@[simp] theorem runWindow_cmd : (runWindow t s).cmd = s.cmd :=
  let ⟨⟨h, _⟩, _⟩ := runWindow_keeps t s; h
@[simp] theorem runWindow_blkIn : (runWindow t s).blkIn = s.blkIn :=
  let ⟨⟨_, h, _⟩, _⟩ := runWindow_keeps t s; h
@[simp] theorem runWindow_keyIn : (runWindow t s).keyIn = s.keyIn :=
  let ⟨⟨_, _, h, _⟩, _⟩ := runWindow_keeps t s; h
@[simp] theorem runWindow_cmdWritten : (runWindow t s).cmdWritten = s.cmdWritten :=
  let ⟨⟨_, _, _, h, _⟩, _⟩ := runWindow_keeps t s; h
@[simp] theorem runWindow_blkWritten : (runWindow t s).blkWritten = s.blkWritten :=
  let ⟨⟨_, _, _, _, h, _⟩, _⟩ := runWindow_keeps t s; h
@[simp] theorem runWindow_keyWritten : (runWindow t s).keyWritten = s.keyWritten :=
  let ⟨⟨_, _, _, _, _, h, _⟩, _⟩ := runWindow_keeps t s; h
@[simp] theorem runWindow_host : (runWindow t s).host = s.host :=
  let ⟨⟨_, _, _, _, _, _, h, _⟩, _⟩ := runWindow_keeps t s; h
@[simp] theorem runWindow_reads : (runWindow t s).reads = s.reads :=
  let ⟨⟨_, _, _, _, _, _, _, h, _⟩, _⟩ := runWindow_keeps t s; h
@[simp] theorem runWindow_startFault : (runWindow t s).startFault = s.startFault :=
  let ⟨⟨_, _, _, _, _, _, _, _, _, h⟩, _⟩ := runWindow_keeps t s; h
@[simp] theorem runWindow_kr : (runWindow t s).kr = s.kr :=
  let ⟨_, h, _⟩ := runWindow_keeps t s; h
@[simp] theorem runWindow_opr : (runWindow t s).opr = s.opr :=
  let ⟨_, _, h⟩ := runWindow_keeps t s; h

end RunWindowFields

/-! ### One step of a host action -/

section StepOfAction

variable {s : State} {w : Option Nat} {rest : List HostEntry}

/-- A step with an action to do, at the hardware's tables and commands. -/
theorem step_cons {a : HostAction} (h : s.host = { action := a, window := w } :: rest) :
    step s = doAction Config.tables exec a s (nextAction rest w s) :=
  stepIn_cons Config.tables exec h

theorem step_writeCmd {op : BitVec 1} (h : s.host = { action := .writeCmd op, window := w } :: rest) :
    step s = .next (runWindow Config.tables (writeCmd op (nextAction rest w s))) :=
  step_cons h

theorem step_writeBlk {o : Operand} {bs : List Byte} (ho : operandBytes o s.reads = some bs)
    (h : s.host = { action := .writeBlk o, window := w } :: rest) :
    step s = .next (runWindow Config.tables (writeBlk bs (nextAction rest w s))) := by
  simp [step_cons h, doAction, doWriteBlk, ho]

theorem step_writeKey {bs : List Byte} (h : s.host = { action := .writeKey bs, window := w } :: rest) :
    step s = .next (runWindow Config.tables (writeKey bs (nextAction rest w s))) :=
  step_cons h

theorem step_readStatus {name : Name} (hl : legalStatus s.status = true)
    (h : s.host = { action := .readStatus name, window := w } :: rest) :
    step s = .next (runWindow Config.tables
      (bindReading { name := name, status := some s.status, out := none } (nextAction rest w s))) := by
  simp [step_cons h, doAction, doReadStatus, hl]

/-- The latest reading is the one its name stands for (R76). -/
@[simp] theorem findReading_cons_self (r : Reading) (rs : List Reading) : findReading r.name (r :: rs) = some r := by
  simp [findReading]

@[simp] theorem sameEngine_writeCmd (op : BitVec 1) (s : State) : sameEngine s (writeCmd op s) := by simp [sameEngine]

@[simp] theorem sameEngine_writeBlk (bs : List Byte) (s : State) : sameEngine s (writeBlk bs s) := by
  simp [sameEngine]

@[simp] theorem sameEngine_writeKey (bs : List Byte) (s : State) : sameEngine s (writeKey bs s) := by
  simp [sameEngine]

@[simp] theorem sameEngine_nextAction (rest : List HostEntry) (w : Option Nat) (s : State) :
    sameEngine s (nextAction rest w s) := by simp [sameEngine]

theorem sameEngine_trans {a b c : State} (h1 : sameEngine a b) (h2 : sameEngine b c) : sameEngine a c := by
  simp_all [sameEngine]

end StepOfAction

/-! ### Consistent states (R29, R30, R33) -/

/-- Consistency speaks of the engine alone. -/
theorem consistent_congr {s u : State} (h : sameEngine s u) : u.consistent = s.consistent := by
  obtain ⟨hout, hstatus, -, hph, -, -, hopr⟩ := h
  simp [State.consistent, hout, hstatus, hph, hopr]

/-- Everything consistency says, of an idle engine and of one that runs a command. -/
theorem consistent_cases {s : State} (h : s.consistent = true) :
    (s.ph = .idle ∧ legalStatus s.status = true ∧ statusBusy s.status = false ∧
      s.blkOut.isSome = resultValid s.status) ∨
    (∃ i, s.ph = runPhase i ∧ s.status = 0b0001 ∧ s.blkOut = none ∧ s.opr = encode i) := by
  cases hp : s.ph with
  | idle => left; simpa [State.consistent, hp, and_assoc] using h
  | runEnc => right; exact ⟨.encrypt, rfl, by simpa [State.consistent, hp, and_assoc] using h⟩
  | runDec => right; exact ⟨.decrypt, rfl, by simpa [State.consistent, hp, and_assoc] using h⟩

theorem legalStatus_of_consistent {s : State} (h : s.consistent = true) : legalStatus s.status = true := by
  rcases consistent_cases h with ⟨-, hlegal, -⟩ | ⟨i, -, hbusy, -⟩
  · exact hlegal
  · rw [hbusy]; decide

/-- While a command runs, STATUS shows BUSY and nothing else (R30, R37). -/
theorem status_of_busy {s : State} (h : s.consistent = true) (hp : s.ph ≠ .idle) : s.status = 0b0001 := by
  rcases consistent_cases h with ⟨hidle, -⟩ | ⟨i, -, hbusy, -⟩
  · exact absurd hidle hp
  · exact hbusy

/-- An error completion is consistent, whatever it ends (R39). -/
@[simp] theorem takeError_consistent (e : EngineError) (s : State) : (takeError e s).consistent = true := by
  simp only [State.consistent, takeError_ph, takeError_status, takeError_blkOut]
  cases e <;> decide

/-- A normal completion is consistent, whatever it ends (R38). -/
@[simp] theorem complete_consistent (s : State) : (complete s).consistent = true := by
  simp only [State.consistent, complete_ph, complete_status, complete_blkOut, Option.isSome_some]
  decide

@[simp] theorem endRound_consistent (b : Block) (s : State) : (endRound b s).consistent = s.consistent := rfl

theorem reset_consistent : State.reset.consistent = true := by decide

@[simp] theorem resetEngine_consistent (s : State) : (resetEngine s).consistent = true :=
  (consistent_congr (s := State.reset) (by simp [sameEngine])).trans reset_consistent

/-- An acceptance makes any state consistent: it latches `OPR`, sets BUSY and drops the old result (R37). -/
@[simp] theorem accept_consistent (i : Instr) (s : State) : (accept i s).consistent = true := by
  rcases accept_cases i s with ⟨b, k, -, -, e⟩ | ⟨-, e⟩ <;> rw [e]
  · cases i <;> rfl
  · simp

theorem advance_consistent {s : State} (h : s.consistent = true) : (advance t s).consistent = true := by
  rcases advance_cases t s with
    ⟨-, e⟩ | ⟨-, -, e⟩ | ⟨-, -, e⟩ | ⟨-, -, b, -, e⟩ | ⟨-, -, -, e⟩ | ⟨-, -, e⟩ <;> simp [e, h]

theorem runWindow_consistent {s : State} (h : s.consistent = true) : (runWindow t s).consistent = true :=
  runWindow_induct t (P := fun s => s.consistent = true) (fun _ => advance_consistent t) h

/-! ### Engines that run alike (R34, R187) -/

/-- Two engines from which the host will see the same: they hold the same, or both are idle and show the same, as after
an error, which leaves the latches as they were (log entry 14). -/
def runAlike (s u : State) : Prop := sameEngine s u ∨ (s.ph = .idle ∧ u.ph = .idle ∧ sameView s u)

theorem runAlike_view {s u : State} (h : runAlike s u) : sameView s u ∧ s.ph = u.ph := by
  rcases h with h | ⟨hs, hu, hv⟩
  · have ⟨_, _, _, hph, _⟩ := h
    exact ⟨sameView_of_sameEngine h, hph.symm⟩
  · exact ⟨hv, hs.trans hu.symm⟩

theorem runAlike_advanceN (n : Nat) {s u : State} (h : runAlike s u) :
    runAlike (advanceN t n s) (advanceN t n u) := by
  rcases h with h | ⟨hs, hu, hv⟩
  · exact .inl (advanceN_congr t n h)
  · rw [advanceN_idle t n hs, advanceN_idle t n hu]
    exact .inr ⟨hs, hu, hv⟩

theorem runAlike_runWindow {s u : State} (h : runAlike s u) (hw : u.window = s.window) :
    runAlike (runWindow t s) (runWindow t u) := by
  rcases h with h | ⟨hs, hu, hv⟩
  · exact .inl (runWindow_congr t h hw)
  · rw [runWindow_idle t hs, runWindow_idle t hu]
    exact .inr ⟨hs, hu, hv⟩

/-- Acceptances of the same operands run alike: with both lengths right every latch is written, else both engines are
idle with InvalidBlockSizeError (R37, R200). -/
theorem accept_runAlike (i : Instr) {s u : State} (hb : s.blkIn = u.blkIn) (hk : s.keyIn = u.keyIn) :
    runAlike (accept i s) (accept i u) := by
  rcases accept_cases i s with ⟨b, k, hsb, hsk, e⟩ | ⟨hlen, e⟩
  · rw [e, accept_blocks i (hb.symm.trans hsb) (hk.symm.trans hsk)]
    exact .inl (by simp [sameEngine])
  · rcases accept_cases i u with ⟨b, k, hub, huk, -⟩ | ⟨-, e'⟩
    · simp [hb, hk, hub, huk] at hlen
    · rw [e, e']
      exact .inr (by simp [sameView])

/-! ### The inverse lookup (R21, R102) -/

theorem allBytes_getElem {n : Nat} (h : n < allBytes.length) : allBytes[n] = BitVec.ofNat 8 n := by
  simp [allBytes]

@[simp] theorem allBytes_length : allBytes.length = 256 := by simp [allBytes]

/-- The ascending scan finds the least preimage: the entry at index n is byte n, so what stands before k is below k. -/
theorem invSbox_eq_some_iff {b k : Byte} :
    invSbox t b = some k ↔ t.sbox k = b ∧ ∀ j : Byte, j < k → t.sbox j ≠ b := by
  rw [invSbox, List.find?_eq_some_iff_getElem]
  simp only [beq_iff_eq, allBytes_getElem, allBytes_length, Bool.not_eq_true', beq_eq_false_iff_ne]
  refine and_congr_right fun _ => ⟨?_, fun hmin => ?_⟩
  · rintro ⟨n, hn, rfl, hmin⟩ j hj
    have hjn : j.toNat < n := by simpa [BitVec.lt_def, Nat.mod_eq_of_lt hn] using hj
    simpa using hmin j.toNat hjn
  · refine ⟨k.toNat, k.isLt, by simp, fun n hn => hmin _ ?_⟩
    simpa [BitVec.lt_def, Nat.mod_eq_of_lt (hn.trans k.isLt)] using hn

theorem invSbox_eq_none_iff {b : Byte} : invSbox t b = none ↔ ∀ k : Byte, t.sbox k ≠ b := by
  simp [invSbox]

/-- R102's check over the 256 entries is injectivity. -/
theorem admitted_iff_injective : t.admitted = true ↔ Function.Injective t.sbox := by
  simp only [Tables.admitted, List.all_eq_true, mem_allBytes, Bool.or_eq_true, beq_iff_eq, bne_iff_ne, true_implies]
  exact forall₂_congr fun k1 k2 => by rw [or_iff_not_imp_right, not_not]

/-! ### The settled statements -/

/-- Settles O39: of all a step can do, a completion, an error, an acceptance and a reset make any state consistent, and
the rest changes nothing that consistency speaks of. -/
theorem stepKeepsConsistent : Obligations.StepKeepsConsistent := by
  intro s s' hs h
  rcases stepIn_next Config.tables exec h with rfl | ⟨e, rest, u, -, -, -, hu, -, -, rfl⟩ |
    ⟨e, rest, -, -, rfl⟩ | ⟨e, rest, -, -, -, -, rfl⟩ | ⟨e, rest, -, -, -, -, hrun⟩
  · exact advance_consistent _ hs
  · have hsu : sameEngine s u := sameEngine_trans (sameEngine_nextAction ..) hu
    exact runWindow_consistent _ ((consistent_congr hsu).trans hs)
  · exact resetEngine_consistent _
  · have hsr : sameEngine s (recordStart (nextAction rest e.window s)) :=
      sameEngine_trans (sameEngine_nextAction ..) (sameEngine_recordStart _)
    exact (consistent_congr hsr).trans hs
  · obtain ⟨-, rfl⟩ := exec_next hrun
    exact runWindow_consistent _ (accept_consistent ..)

/-- Settles O6: the scan's result is the least preimage; an admitted table is injective on a finite type, hence onto, so
that there is one. -/
theorem invSboxIsLeastPreimage : Obligations.InvSboxIsLeastPreimage := by
  refine fun t b => ⟨fun k => invSbox_eq_some_iff t, invSbox_eq_none_iff t, fun ha => ?_⟩
  have hinj : Function.Injective t.sbox := (admitted_iff_injective t).mp ha
  obtain ⟨k, hk⟩ := Finite.surjective_of_injective hinj b
  have huniq : ∀ j, t.sbox j = b ↔ j = k := fun j => by rw [← hk, hinj.eq_iff]
  exact ⟨k, (invSbox_eq_some_iff t).mpr ⟨hk, fun j hj he => BitVec.ne_of_lt hj ((huniq j).mp he)⟩, huniq⟩

/-- Settles O33: neither the acceptance nor a move touches the host's side, and no move touches `OPR` or `KR`. -/
theorem commandFrame : Obligations.CommandFrame := by
  intro i s s' h
  obtain ⟨-, rfl⟩ := exec_next h
  obtain ⟨haccept, hopr⟩ := accept_keeps i s
  obtain ⟨hwindow, -, -⟩ := runWindow_keeps Config.tables (accept i s)
  refine ⟨sameHostSide_trans haccept hwindow, by simp [hopr], fun hb hk => ?_⟩
  rcases accept_cases i s with ⟨b, k, -, hkey, e⟩ | ⟨hlen, -⟩
  · simp [e, hkey]
  · simp [hb, hk] at hlen

/-- Settles O34: the two acceptances run alike, and so do the windows after them if they are the same; run out, the
windows make no difference. -/
theorem resultDependsOnOperandsOnly : Obligations.ResultDependsOnOperandsOnly := by
  intro i s₁ s₂ s₁' s₂' _ _ hb hk h₁ h₂
  obtain ⟨-, rfl⟩ := exec_next h₁
  obtain ⟨-, rfl⟩ := exec_next h₂
  have halike : runAlike (accept i s₁) (accept i s₂) := accept_runAlike i hb hk
  refine ⟨⟨advanceN_seventeen_ph .., advanceN_seventeen_ph .., ?_⟩, fun hw => ?_⟩
  · simp only [advanceN_seventeen_runWindow]
    exact (runAlike_view (runAlike_advanceN _ 17 halike)).1
  · exact runAlike_view (runAlike_runWindow _ halike (by simp [hw]))

/-- Settles O48: a consistent state's STATUS is legal, so the read is taken, and no move touches what was read. -/
theorem statusReadGivesStatus : Obligations.StatusReadGivesStatus := by
  intro s name w rest hs h
  refine ⟨_, step_readStatus (legalStatus_of_consistent hs) h, by simp, by simp, ?_, status_of_busy hs⟩
  rw [runWindow_reads, bindReading_reads]
  exact findReading_cons_self _ _

/-- Settles O49: a write leaves the engine alone, a window of moves depends on the engine alone, and it leaves the
registers and marks alone. -/
theorem operandWritesDoNotReachCommand : Obligations.OperandWritesDoNotReachCommand := by
  refine fun s w rest => ⟨fun op h => ?_, fun o bs ho h => ?_, fun bs h => ?_⟩
  · exact ⟨_, step_writeCmd h, runWindow_congr _ (sameEngine_writeCmd ..) rfl, by simp⟩
  · exact ⟨_, step_writeBlk ho h, runWindow_congr _ (sameEngine_writeBlk ..) rfl, by simp⟩
  · exact ⟨_, step_writeKey h, runWindow_congr _ (sameEngine_writeKey ..) rfl, by simp⟩

/-- Settles O4: at an idle engine with its operands written, START is not held and not the fault of R241. -/
theorem stepRunsIssuedCommand : Obligations.StepRunsIssuedCommand :=
  fun _ _ _ h hidle hwritten => (step_cons h).trans (doStart_idle Config.tables exec hidle hwritten)

/-- Settles O37: the fields of `State.reset` as written. -/
theorem resetValues : Obligations.ResetValues := by
  refine ⟨rfl, rfl, rfl, reset_consistent, ?_, fun _ => ⟨rfl, rfl, rfl⟩, rfl⟩
  unfold State.noCorruptTable
  decide

/-- Settles O54: each of the three actions checks STATUS before anything else; the legal values are a finite matter. -/
theorem reservedStatusRefused : Obligations.ReservedStatusRefused := by
  refine ⟨fun s name a w rest ha h hl => ?_, by decide, by decide⟩
  rw [step_cons h]
  rcases ha with rfl | rfl | rfl
  · simp [doAction, doReadStatus, hl]
  · simp [doAction, doWait, hl]
  · simp [doAction, doRead, hl]

/-- Settles O55: the fields are bits of four, so every clause is a finite check. -/
theorem statusFields : Obligations.StatusFields :=
  ⟨fun _ => ⟨rfl, rfl, rfl⟩, by decide, by decide, rfl, rfl, rfl⟩

end Sys2Proof.Machine
end

section
/-! PROOFS, memory (spec 20_memory.md). First where a byte packed onto a port word stands, and what a step that reads
does; then the settled statements. -/

namespace Sys2Proof.Machine

/-! ### Bytes packed onto a port word (R52) -/

section PackStep

variable (w : PortWord) (b : Byte)

/-- The byte packed last is the lowest. -/
@[simp] theorem packStep_extractLsb'_zero : (packStep w b).extractLsb' 0 8 = b := by
  ext j hj
  simp [packStep, hj, show j < 128 by omega]

/-- The bytes packed before it move up by one place, within the word. -/
theorem packStep_extractLsb'_add_eight {k : Nat} (hk : k + 16 ≤ 128) :
    (packStep w b).extractLsb' (k + 8) 8 = w.extractLsb' k 8 := by
  ext j hj
  have hb : b.getLsbD (k + 8 + j) = false := b.getLsbD_of_ge _ (by omega)
  simp [packStep, hb, show k + 8 + j < 128 by omega, show ¬ k + 8 + j < 8 by omega,
    show k + 8 + j - 8 = k + j by omega, ← BitVec.getLsbD_eq_getElem]

end PackStep

/-- Of at most 16 bytes packed in order, the last is lowest and byte i stands as many places above it as bytes follow
it. -/
theorem foldl_packStep_extractLsb' (w : PortWord) {bs : List Byte} (hl : bs.length ≤ 16) {i : Nat}
    (hi : i < bs.length) : (bs.foldl packStep w).extractLsb' (8 * (bs.length - 1 - i)) 8 = bs[i] := by
  induction bs using List.reverseRecOn with
  | nil => simp at hi
  | append_singleton bs b ih =>
    simp only [List.length_append, List.length_singleton] at hl hi
    simp only [List.foldl_append, List.foldl_cons, List.foldl_nil, List.length_append, List.length_singleton]
    rcases Nat.lt_or_eq_of_le (Nat.le_of_lt_succ hi) with hlt | rfl
    · have hplace : 8 * (bs.length + 1 - 1 - i) = 8 * (bs.length - 1 - i) + 8 := by omega
      rw [hplace, packStep_extractLsb'_add_eight _ _ (by omega), ih (by omega) hlt, List.getElem_append_left hlt]
    · simp

/-- R52: the bytes of a packed block stand in descending places, byte 15 lowest. -/
theorem packBlock_extractLsb' (B : Block) {i : Nat} (hi : i < 16) :
    (packBlock B).extractLsb' (120 - 8 * i) 8 = B[i] := by
  have hbyte := foldl_packStep_extractLsb' 0 (bs := B.toList) (by simp) (i := i) (by simpa using hi)
  have hplace : 120 - 8 * i = 8 * (15 - i) := by omega
  rw [hplace]
  simpa [packBlock] using hbyte

/-! ### A step that reads (R57, R76) -/

section StepOfRead

variable {s s' : State} {name : Name} {w : Option Nat} {rest : List HostEntry}

@[simp] theorem sameEngine_bindReading (r : Reading) (s : State) : sameEngine s (bindReading r s) := by
  simp [sameEngine]

/-- A reading bound before a window of moves makes no difference to the engine after it (R57). -/
theorem runWindow_bindReading (t : Tables) (r : Reading) (s : State) :
    sameEngine (runWindow t s) (runWindow t (bindReading r s)) :=
  runWindow_congr t (sameEngine_bindReading r s) rfl

/-- A step that reads STATUS alone, if it is taken, binds STATUS and nothing else. -/
theorem step_readStatus_next (h : s.host = { action := .readStatus name, window := w } :: rest)
    (hs : step s = .next s') :
    s' = runWindow Config.tables
      (bindReading { name := name, status := some s.status, out := none } (nextAction rest w s)) := by
  simp only [step_cons h, doAction, doReadStatus] at hs
  split at hs
  · cases hs; rfl
  · cases hs

/-- A step that reads BLK_OUT alone, if it is taken, binds BLK_OUT and nothing else. -/
theorem step_readOut_next (h : s.host = { action := .readOut name, window := w } :: rest)
    (hs : step s = .next s') :
    s' = runWindow Config.tables
      (bindReading { name := name, status := none, out := s.blkOut } (nextAction rest w s)) := by
  simp only [step_cons h, doAction, doReadOut, nextAction_blkOut] at hs
  split at hs
  · next b hb => cases hs; rw [hb]
  · cases hs

/-- A READ step, if it is taken, binds STATUS, and BLK_OUT where STATUS says there is a result (R76). -/
theorem step_read_next (h : s.host = { action := .read name, window := w } :: rest) (hs : step s = .next s') :
    s' = runWindow Config.tables
      (bindReading { name := name, status := some s.status, out := if resultValid s.status then s.blkOut else none }
        (nextAction rest w s)) := by
  simp only [step_cons h, doAction, doRead] at hs
  split at hs
  · split at hs
    · next r hr => cases hs; rw [readResult_ok hr]; rfl
    · cases hs
  · cases hs

end StepOfRead

/-! ### The settled statements -/

/-- Settles O2: packing by the places of bytes packed in order, unpacking by its definition. -/
theorem portWordBytePlacement : Obligations.PortWordBytePlacement :=
  ⟨fun B i => packBlock_extractLsb' B i.isLt, fun W i => unpackBlock_getElem i.val i.isLt W⟩

/-- Settles O51: each of the three reads binds one reading and is then a window of moves, which the reading does not
reach and which leaves the host's side alone. -/
theorem readsHaveNoSideEffect : Obligations.ReadsHaveNoSideEffect := by
  intro s s' name a w rest ha h hs
  rcases ha with rfl | rfl | rfl
  · obtain rfl := step_readStatus_next h hs
    exact ⟨runWindow_bindReading .., by simp⟩
  · obtain rfl := step_readOut_next h hs
    exact ⟨runWindow_bindReading .., by simp⟩
  · obtain rfl := step_read_next h hs
    exact ⟨runWindow_bindReading .., by simp⟩

end Sys2Proof.Machine
end

section
/-! PROOFS, encoding (spec 30_encoding.md). First that ports, command words, hexadecimal digits and READ carry what they
were given, and the marks of R241 along a run; then the settled statements. -/

namespace Sys2Proof.Machine

/-! ### Blocks on a port and whole commands (R52, R70) -/

@[simp] theorem unpackBlock_packBlock (B : Block) : unpackBlock (packBlock B) = B := by
  ext i hi : 1
  rw [unpackBlock_getElem, packBlock_extractLsb' B hi]

/-- A port word has no bits but those of its sixteen bytes. -/
theorem portWord_ext {V W : PortWord}
    (h : ∀ i < 16, V.extractLsb' (120 - 8 * i) 8 = W.extractLsb' (120 - 8 * i) 8) : V = W := by
  refine BitVec.eq_of_getLsbD_eq fun j hj => ?_
  have hbyte := congrArg (·.getLsbD (j % 8)) (h (15 - j / 8) (by omega))
  have hplace : 120 - 8 * (15 - j / 8) + j % 8 = j := by omega
  simpa [hplace, show j % 8 < 8 by omega] using hbyte

@[simp] theorem packBlock_unpackBlock (W : PortWord) : packBlock (unpackBlock W) = W :=
  portWord_ext fun i hi => by rw [packBlock_extractLsb' _ hi, unpackBlock_getElem i hi]

@[simp] theorem decodeCmd_encode (i : Instr) : decodeCmd (encode i) = i := by cases i <;> rfl

@[simp] theorem encode_decodeCmd (op : BitVec 1) : encode (decodeCmd op) = op := by decide +revert

/-- R200: sixteen bytes are a block. -/
theorem exists_block_toList {bs : List Byte} (h : bs.length = 16) : ∃ B : Block, B.toList = bs :=
  ⟨⟨bs.toArray, h⟩, rfl⟩

/-- R73: a command is well-formed exactly if both operands are 16 bytes long. -/
theorem command_wellFormed_iff (c : Command) :
    c.wellFormed = true ↔ c.blk.length = 16 ∧ c.key.length = 16 := by
  have hop : c.op.wellFormed = true := by cases c.op <;> rfl
  simp [Command.wellFormed, lengthOk, hop]

/-- R70: a command whose operands are blocks, at the ports. -/
@[simp] theorem encodeCommand_blocks (op : Instr) (b k : Block) :
    encodeCommand { op := op, blk := b.toList, key := k.toList } =
      some { cmd := encode op, blkIn := packBlock b, keyIn := packBlock k } := by
  simp [encodeCommand]

/-- R73: an operand that is not 16 bytes long leaves a command without an encoding. -/
theorem encodeCommand_eq_none {c : Command} (h : c.blk.length ≠ 16 ∨ c.key.length ≠ 16) :
    encodeCommand c = none := by
  rcases h with h | h
  · simp [encodeCommand, blockOfBytes_eq_none h]
  · simp [encodeCommand, blockOfBytes_eq_none h]

/-! ### The command word (R70, R71) -/

theorem wordBits_succ (n w : Nat) :
    wordBits (n + 1) w = w.testBit 0 :: (List.range n).map fun k => w.testBit (k + 1) := by
  simp [wordBits, List.range_succ_eq_map, Function.comp_def]

theorem decodeTableWord_succ (n w : Nat) :
    decodeTableWord (n + 1) w = some (decodeCmd (BitVec.ofBool (w.testBit 0))) := by
  simp [decodeTableWord, wordBits_succ, decode]

theorem decodeTableWord_zero (w : Nat) : decodeTableWord 0 w = none := rfl

/-- What `CMD` holds once a word is placed decodes to the instruction the word does (log entry 18). -/
theorem decodeCmd_fetchCmd {nbits w : Nat} {i : Instr} (h : decodeTableWord nbits w = some i) :
    decodeCmd (fetchCmd nbits w) = i := by
  cases nbits with
  | zero => simp [decodeTableWord_zero] at h
  | succ n => simpa [decodeTableWord_succ, fetchCmd, wordBits_succ] using h

/-! ### Hexadecimal literals (R76) -/

/-- `f` writes a digit in a form in which it is read as the digit it was, as either case of the letters does. -/
def KeepsHexDigits (f : Char → Char) : Prop :=
  ∀ n < 16, isHexDigit (f (hexDigit n)) = true ∧ hexValue (f (hexDigit n)) = n

theorem keepsHexDigits_id : KeepsHexDigits id := by unfold KeepsHexDigits; decide

theorem keepsHexDigits_toLower : KeepsHexDigits Char.toLower := by unfold KeepsHexDigits; decide

theorem printHex_cons (b : Byte) (bs : List Byte) :
    printHex (b :: bs) = hexDigit (b.toNat / 16) :: hexDigit (b.toNat % 16) :: printHex bs := rfl

theorem printHex_length (bs : List Byte) : (printHex bs).length = 2 * bs.length := by
  induction bs with
  | nil => rfl
  | cons b bs ih => simp only [printHex_cons, List.length_cons, ih]; omega

section PrintedDigits

variable {f : Char → Char} (hf : KeepsHexDigits f)
include hf

theorem all_isHexDigit_printHex (bs : List Byte) : ((printHex bs).map f).all isHexDigit = true := by
  induction bs with
  | nil => rfl
  | cons b bs ih =>
    have hhi := (hf (b.toNat / 16) (by omega)).1
    have hlo := (hf (b.toNat % 16) (by omega)).1
    rw [printHex_cons, List.map_cons, List.map_cons, List.all_cons, List.all_cons, hhi, hlo, ih]; rfl

theorem hexBytes_printHex (bs : List Byte) : hexBytes ((printHex bs).map f) = bs := by
  induction bs with
  | nil => rfl
  | cons b bs ih =>
    have hhi := (hf (b.toNat / 16) (by omega)).2
    have hlo := (hf (b.toNat % 16) (by omega)).2
    have hval : BitVec.ofNat 8 (16 * (b.toNat / 16) + b.toNat % 16) = b := by
      rw [Nat.div_add_mod, BitVec.ofNat_toNat, BitVec.setWidth_eq]
    rw [printHex_cons, List.map_cons, List.map_cons, hexBytes, hhi, hlo, hval, ih]

theorem parseHex_printHex {bs : List Byte} (h : bs ≠ []) : parseHex ((printHex bs).map f) = .ok bs := by
  have hlen : ((printHex bs).map f).length = 2 * bs.length := by rw [List.length_map, printHex_length]
  have hne : (printHex bs).map f ≠ [] := fun e => h (by simpa [e] using hlen)
  have hok : hexLiteralOk ((printHex bs).map f) = true := by
    rw [hexLiteralOk, all_isHexDigit_printHex hf, hlen]
    simpa using hne
  rw [parseHex, if_pos hok, hexBytes_printHex hf]

end PrintedDigits

/-! ### What READ binds (R29, R76) -/

/-- `BLK_OUT` holds a result exactly when STATUS says so (R29). -/
theorem blkOut_isSome_of_consistent {s : State} (h : s.consistent = true) :
    s.blkOut.isSome = resultValid s.status := by
  rcases consistent_cases h with ⟨-, -, -, hvalid⟩ | ⟨i, -, hstatus, hout, -⟩
  · exact hvalid
  · rw [hstatus, hout]; decide

theorem readResult_of_consistent (name : Name) {s : State} (h : s.consistent = true) :
    readResult name s =
      .ok { name := name, status := some s.status, out := if resultValid s.status then s.blkOut else none } := by
  cases hr : readResult name s with
  | ok r => rw [readResult_ok hr]
  | error f =>
    obtain ⟨-, hvalid, hout⟩ := readResult_error hr
    simp [← blkOut_isSome_of_consistent h, hout] at hvalid

/-- From a consistent state READ is taken: it is no fault and no refusal. -/
theorem step_read_taken {s : State} {name : Name} {w : Option Nat} {rest : List HostEntry} (hs : s.consistent = true)
    (h : s.host = { action := .read name, window := w } :: rest) : ∃ s', step s = .next s' := by
  have hnext : (nextAction rest w s).consistent = true := (consistent_congr (sameEngine_nextAction ..)).trans hs
  simp [step_cons h, doAction, doRead, legalStatus_of_consistent hs, readResult_of_consistent name hnext]

/-- A name stands for the latest reading under it (log entry 11). -/
theorem boundOut_cons_self (name : Name) (status : Option (BitVec 4)) (out : Option Block) (rs : List Reading) :
    boundOut name ({ name := name, status := status, out := out } :: rs) = out := by
  simp [boundOut, findReading]

/-! ### The marks of the operand registers along a run (R241) -/

/-- Which operand registers the host has written since reset. -/
structure Marks where
  cmd : Bool
  blk : Bool
  key : Bool

@[simp] def State.marks (s : State) : Marks := ⟨s.cmdWritten, s.blkWritten, s.keyWritten⟩

theorem operandsWritten_iff_marks (s : State) : operandsWritten s = true ↔ s.marks = ⟨true, true, true⟩ := by
  simp [operandsWritten, and_assoc]

/-- The marks once the host has taken an action. -/
@[simp] def Marks.after (m : Marks) (a : HostAction) : Marks :=
  match a with
  | .writeCmd _ => { m with cmd := true }
  | .writeBlk _ => { m with blk := true }
  | .writeKey _ => { m with key := true }
  | .reset => ⟨false, false, false⟩
  | _ => m

/-- With marks `m` at first, every START among the actions comes with all three registers written. -/
def startsCovered : Marks → List HostAction → Prop
  | _, [] => True
  | m, a :: as => (a = .start → m = ⟨true, true, true⟩) ∧ startsCovered (m.after a) as

/-- R76: whatever was written before it, each step that issues START writes the three registers first. -/
theorem startsCovered_flatMap_stepActions (hs : List HostStep) (m : Marks) :
    startsCovered m (hs.flatMap stepActions) := by
  induction hs generalizing m with
  | nil => trivial
  | cons h hs ih => cases h <;> simp [stepActions, startsCovered, ih]

theorem schedule_map_action (as : List HostAction) (ws : List (Option Nat)) :
    (schedule as ws).map HostEntry.action = as := by
  induction as generalizing ws with
  | nil => rfl
  | cons a as ih => cases ws <;> simp [schedule, ih]

theorem marks_of_sameHostSide {s s' : State} (h : sameHostSide s s') :
    s'.host = s.host ∧ s'.marks = s.marks ∧ s'.startFault = s.startFault := by
  obtain ⟨-, -, -, hcmd, hblk, hkey, hhost, -, -, hfault⟩ := h
  exact ⟨hhost, by simp [hcmd, hblk, hkey], hfault⟩

/-- An action that is no START before its writes is taken, or the host is held or polls; neither records the fault. -/
theorem step_marks {s s' : State} {a : HostAction} {w : Option Nat} {rest : List HostEntry}
    (h : s.host = { action := a, window := w } :: rest) (hcov : a = .start → operandsWritten s = true)
    (hs : step s = .next s') :
    (s'.host = s.host ∧ s'.marks = s.marks ∧ s'.startFault = s.startFault) ∨
    (s'.host = rest ∧ s'.marks = s.marks.after a ∧ s'.startFault = s.startFault) := by
  have hheld := marks_of_sameHostSide (advance_keeps Config.tables s).1
  cases a with
  | readStatus name => obtain rfl := step_readStatus_next h hs; right; simp
  | readOut name => obtain rfl := step_readOut_next h hs; right; simp
  | read name => obtain rfl := step_read_next h hs; right; simp
  | writeCmd op => cases (step_writeCmd h).symm.trans hs; right; simp
  | writeKey bs => cases (step_writeKey h).symm.trans hs; right; simp
  | reset => cases (step_cons h).symm.trans hs; exact .inr ⟨rfl, rfl, rfl⟩
  | writeBlk o =>
    simp only [step_cons h, doAction, doWriteBlk] at hs
    split at hs
    · cases hs; right; simp
    · cases hs
  | wait =>
    simp only [step_cons h, doAction, doWait] at hs
    split at hs
    · split at hs
      · cases hs; right; simp
      · cases hs; exact .inl hheld
    · cases hs
  | start =>
    simp only [step_cons h, doAction] at hs
    by_cases hp : s.ph = .idle
    · rw [doStart_idle Config.tables exec hp (hcov rfl)] at hs
      exact .inr (marks_of_sameHostSide (commandFrame _ _ _ hs).1)
    · rw [doStart_busy Config.tables exec hp] at hs
      cases hs; exact .inl hheld

/-- The invariant of a host program's run: the STARTs still to come are covered by what is written, and the record of
R241 is as it was. -/
def CoveredSince (fault : Bool) (s : State) : Prop :=
  startsCovered s.marks (s.host.map HostEntry.action) ∧ s.startFault = fault

theorem step_coveredSince {fault : Bool} {s s' : State} (hc : CoveredSince fault s) (hs : step s = .next s') :
    CoveredSince fault s' := by
  obtain ⟨hcov, hfault⟩ := hc
  cases hh : s.host with
  | nil =>
    cases (stepIn_nil Config.tables exec hh).symm.trans hs
    obtain ⟨hhost, hmarks, hfault'⟩ := marks_of_sameHostSide (advance_keeps Config.tables s).1
    exact ⟨by rwa [hhost, hmarks], hfault'.trans hfault⟩
  | cons e rest =>
    obtain ⟨a, w⟩ := e
    have ⟨hwritten, hrest⟩ : (a = .start → s.marks = ⟨true, true, true⟩) ∧
        startsCovered (s.marks.after a) (rest.map HostEntry.action) := by rwa [hh] at hcov
    rcases step_marks hh (fun ha => (operandsWritten_iff_marks s).mpr (hwritten ha)) hs with
      ⟨hhost, hmarks, hfault'⟩ | ⟨hhost, hmarks, hfault'⟩
    · exact ⟨by rwa [hhost, hmarks], hfault'.trans hfault⟩
    · exact ⟨by rwa [hhost, hmarks], hfault'.trans hfault⟩

/-- R76, R77: a host program covers its STARTs, whatever was written before it. -/
theorem loadProgram_coveredSince (p : List HostLine) (ws : List (Option Nat)) (s : State) :
    CoveredSince s.startFault (loadProgram p ws s) := by
  refine ⟨?_, rfl⟩
  simp only [loadProgram, schedule_map_action]
  exact startsCovered_flatMap_stepActions ..

/-- What every step keeps holds at the end of every run. -/
theorem core_run_induct {P : State → Prop} (hP : ∀ {s s'}, P s → step s = .next s' → P s') {n : Nat} {s s' : State}
    (h : P s) (hrun : Host.Core.run Sys2Proof.core n s = .next s') : P s' := by
  induction n generalizing s with
  | zero => cases hrun; exact h
  | succ n ih =>
    cases hstep : step s with
    | next u => exact ih (hP h hstep) ((core_run_succ n hstep).symm.trans hrun)
    | fault f =>
      have hc : Sys2Proof.core.step s = .fault f := hstep
      simp [Host.Core.run, hc] at hrun
    | refused r =>
      have hc : Sys2Proof.core.step s = .refused r := hstep
      simp [Host.Core.run, hc] at hrun

/-! ### The settled statements -/

/-- Settles O3: packing and unpacking are inverse to each other, and so are the two readings of the opcode map; a command
whose operands are not both blocks is not encoded. -/
theorem decodeEncodeCommand : Obligations.DecodeEncodeCommand := by
  refine ⟨?_, fun p => ⟨(command_wellFormed_iff _).mpr (by simp [decodeCommand]), ?_⟩, fun c hc => ?_⟩
  · rintro ⟨op, blk, key⟩ hc
    obtain ⟨hblk, hkey⟩ := (command_wellFormed_iff _).mp hc
    obtain ⟨b, rfl⟩ := exists_block_toList hblk
    obtain ⟨k, rfl⟩ := exists_block_toList hkey
    exact ⟨_, encodeCommand_blocks op b k, by simp [decodeCommand]⟩
  · rw [decodeCommand, encodeCommand_blocks, encode_decodeCmd, packBlock_unpackBlock, packBlock_unpackBlock]
  · rw [Bool.eq_false_iff, Ne, command_wellFormed_iff, not_and_or] at hc
    exact encodeCommand_eq_none hc

/-- Settles O44: a run keeps it that the STARTs still to come are covered by what is written, as those of a host program
are at first. -/
theorem hostProgramsWriteBeforeStart : Obligations.HostProgramsWriteBeforeStart :=
  fun p ws s _ _ hrun => (core_run_induct step_coveredSince (loadProgram_coveredSince p ws s) hrun).2

/-- Settles O52: a consistent state's STATUS is legal and tells whether there is a result, so READ is taken, and its
reading is the latest under its name. -/
theorem readBindsResult : Obligations.ReadBindsResult := by
  intro s name w rest hs h
  obtain ⟨s', hs'⟩ := step_read_taken hs h
  obtain rfl := step_read_next h hs'
  refine ⟨_, hs', by simp, ?_⟩
  rw [runWindow_reads, bindReading_reads, boundOut_cons_self]
  cases hv : resultValid s.status with
  | false => simp
  | true => simp [blkOut_isSome_of_consistent hs, hv]

/-- Settles O57: a digit is read as the digit it was written as, in upper case and in lower. -/
theorem hexLiteralRoundTrip : Obligations.HexLiteralRoundTrip := by
  refine ⟨fun bs hbs => ⟨?_, parseHex_printHex keepsHexDigits_toLower hbs, printHex_length bs⟩, fun cs hall hodd => ?_⟩
  · simpa using parseHex_printHex keepsHexDigits_id hbs
  · simp [parseHex, hexLiteralOk, hall, hodd]

/-- Settles O1: the bits of a word begin with bit 0, which is all the decoder reads. -/
theorem commandWordDecodes : Obligations.CommandWordDecodes := by
  refine ⟨fun n w => ?_, decodeTableWord_zero, rfl, rfl, decodeCmd_encode⟩
  rw [decodeTableWord_succ]
  cases w.testBit 0 <;> rfl

/-- Settles O5: a placed word is a START at an idle engine with its operands written, and `CMD` holds the word. -/
theorem stepRunsFetchedWord : Obligations.StepRunsFetchedWord := by
  intro s nbits w i hi
  rw [← decodeCmd_fetchCmd hi]
  exact stepRunsIssuedCommand (s.withFetchWord nbits w) none s.host rfl rfl rfl

/-- Settles O53: the operand is what the name is bound to, and no window of moves touches `BLK_IN`. -/
theorem nameOperand : Obligations.NameOperand := by
  refine fun s name w rest h => ⟨fun hunbound => ?_, fun b hb => ?_⟩
  · simp [step_cons h, doAction, doWriteBlk, operandBytes, hunbound]
  · exact ⟨_, step_writeBlk (bs := b.toList) (by simp [operandBytes, hb]) h, by simp⟩

/-- Settles O56: the expansions as written; a program's actions are its lines' joined in order. -/
theorem hostLanguageExpansion : Obligations.HostLanguageExpansion :=
  ⟨fun _ _ _ => ⟨rfl, rfl, rfl, rfl, rfl, rfl, rfl⟩, fun p q => by simp [programActions]⟩

end Sys2Proof.Machine
end

section
/-! PROOFS, substitution (spec 40_substitution.md). First what an admitted table makes of the build and of
the two lookups, then the statements settled. -/

namespace Sys2Proof.Machine

variable (t : Tables)

/-! ### Admitted tables (R102) -/

/-- R102's pigeonhole: an injective table of bytes is onto. -/
theorem admitted_iff_bijective : t.admitted = true ↔ Function.Bijective t.sbox :=
  (admitted_iff_injective t).trans Finite.injective_iff_bijective

theorem build_of_admitted (ha : t.admitted = true) : t.build = .ok ⟨t, ha⟩ := dif_pos ha

theorem build_of_not_admitted (ha : t.admitted = false) : t.build = .error .sboxNotBijective :=
  dif_neg (by simp [ha])

/-! ### The inverse lookups (R21, R101) -/

/-- With an admitted table, any preimage is the one `INV_SBOX` holds. -/
theorem invSbox_eq_some_iff_of_admitted (ha : t.admitted = true) {b k : Byte} :
    invSbox t b = some k ↔ t.sbox k = b := by
  refine ⟨sbox_of_invSbox t, fun hk => (invSbox_eq_some_iff t).mpr ⟨hk, fun j hj he => BitVec.ne_of_lt hj ?_⟩⟩
  exact (admitted_iff_injective t).mp ha (he.trans hk.symm)

theorem invSubByte_eq_ok_iff {b k : Byte} : invSubByte t b = .ok k ↔ invSbox t b = some k := by
  unfold invSubByte
  cases invSbox t b <;> simp

theorem invSubByte_eq_ok_iff_subByte (ha : t.admitted = true) {b k : Byte} :
    invSubByte t b = .ok k ↔ subByte t k = b :=
  (invSubByte_eq_ok_iff t).trans (invSbox_eq_some_iff_of_admitted t ha)

/-! ### The settled statements -/

/-- Settles O7: the check is injectivity, which on the finite type of bytes is bijectivity; the build branches on it. -/
theorem admittedIffPermutation : Obligations.AdmittedIffPermutation := by
  refine fun t => ⟨?_, admitted_iff_bijective t, fun ha => ⟨_, build_of_admitted t ha, rfl⟩, build_of_not_admitted t⟩
  exact (admitted_iff_injective t).trans Function.injective_iff_pairwise_ne

/-- Settles O9: the inverse lookup answers exactly the preimages, and an admitted table is onto, so that one exists. -/
theorem substitutionInverseLaw : Obligations.SubstitutionInverseLaw := by
  intro t b ha
  obtain ⟨k, hk⟩ := ((admitted_iff_bijective t).mp ha).surjective b
  exact ⟨(invSubByte_eq_ok_iff_subByte t ha).mpr rfl, k, (invSubByte_eq_ok_iff_subByte t ha).mpr hk, hk⟩

/-- Settles O10: what the other lookup answers is a preimage, and `INV_SBOX` holds every preimage. -/
theorem lookupImplementationsAgree : Obligations.LookupImplementationsAgree := by
  intro t impl ha hsound htotal b
  obtain ⟨k, hk⟩ := Option.isSome_iff_exists.mp (htotal b)
  rw [hk, (invSbox_eq_some_iff_of_admitted t ha).mpr (hsound b k hk)]

end Sys2Proof.Machine
end

section
/-! PROOFS, byte permutation (spec 41_byte_permutation.md). First what a loop that writes every position at most once
leaves at a position, which covers the scatters and the swap, then the statements settled. -/

namespace Sys2Proof.Machine

theorem block_ext {B T : Block} (h : ∀ i : Fin 16, B[i] = T[i]) : B = T := Vector.ext fun i hi => h ⟨i, hi⟩

/-! ### Loops of writes -/

/-- A block after writes of bytes at indices, the first of the list first. -/
def writeBytes (ws : List (Fin 16 × Byte)) (out : Block) : Block :=
  ws.foldl (fun out w => out.set w.1 w.2) out

theorem writeBytes_cons (w : Fin 16 × Byte) (ws : List (Fin 16 × Byte)) (out : Block) :
    writeBytes (w :: ws) out = writeBytes ws (out.set w.1 w.2) := rfl

theorem writeBytes_getElem_of_notMem {ws : List (Fin 16 × Byte)} {i : Fin 16} (hi : i ∉ ws.map Prod.fst)
    (out : Block) : (writeBytes ws out)[i] = out[i] := by
  induction ws generalizing out with
  | nil => rfl
  | cons w ws ih =>
    obtain ⟨hne, hrest⟩ := List.ne_and_not_mem_of_not_mem_cons hi
    rw [writeBytes_cons, ih hrest]
    exact Vector.getElem_set_ne _ _ fun h => hne (Fin.ext h).symm

/-- Where no index is written twice, every write is there at the end. -/
theorem writeBytes_getElem_of_mem {ws : List (Fin 16 × Byte)} (hws : (ws.map Prod.fst).Nodup)
    {w : Fin 16 × Byte} (hw : w ∈ ws) (out : Block) : (writeBytes ws out)[w.1] = w.2 := by
  induction ws generalizing out with
  | nil => simp at hw
  | cons v ws ih =>
    obtain ⟨hv, hrest⟩ := List.nodup_cons.mp hws
    rw [writeBytes_cons]
    rcases List.mem_cons.mp hw with rfl | hw
    · rw [writeBytes_getElem_of_notMem hv]
      exact Vector.getElem_set_self _
    · exact ih hrest hw _

/-! ### The scatters (R121, R124) -/

section Scatter

variable {f : Fin 16 → Fin 16} (B : Block)

theorem scatter_eq_writeBytes : scatter f B = writeBytes (blockIndices.map fun i => (f i, B[i])) Block.zero := by
  rw [scatter, writeBytes, List.foldl_map]

theorem scatter_getElem (hf : Function.Injective f) (i : Fin 16) : (scatter f B)[f i] = B[i] := by
  have hnodup : blockIndices.Nodup := by decide
  have hmem : i ∈ blockIndices := by decide +revert
  rw [scatter_eq_writeBytes]
  refine writeBytes_getElem_of_mem ?_ (List.mem_map_of_mem hmem) _
  rw [List.map_map]
  exact hnodup.map hf

/-- A scatter along an involution of the indices takes each byte from where it puts the byte there. -/
theorem scatter_getElem_of_involutive (hf : Function.Involutive f) (i : Fin 16) : (scatter f B)[i] = B[f i] := by
  simpa only [hf i] using scatter_getElem B hf.injective (f i)

end Scatter

/-- Where `COL_ROT_INV` puts byte i (R121), and where `COL_ROT` takes it from (R120). -/
def colRotIndex (i : Fin 16) : Fin 16 := ⟨(i.val + 8) % 16, by omega⟩

/-- Where `ROW_ROT_INV` puts byte i (R124), and where `ROW_ROT` takes it from (R123). -/
def rowRotIndex (i : Fin 16) : Fin 16 := ⟨4 * (i.val / 4) + (i.val % 4 + 2) % 4, by omega⟩

theorem colRotIndex_involutive : Function.Involutive colRotIndex := by unfold Function.Involutive; decide

theorem rowRotIndex_involutive : Function.Involutive rowRotIndex := by unfold Function.Involutive; decide

section Rotations

variable (B : Block) (i : Fin 16)

theorem colRot_getElem_index : (colRot B)[i] = B[colRotIndex i] := colRot_getElem B i i.isLt

theorem rowRot_getElem_index : (rowRot B)[i] = B[rowRotIndex i] := rowRot_getElem B i i.isLt

theorem colRotInv_getElem_index : (colRotInv B)[colRotIndex i] = B[i] := by
  rw [colRotInv]
  exact scatter_getElem B colRotIndex_involutive.injective i

theorem rowRotInv_getElem_index : (rowRotInv B)[rowRotIndex i] = B[i] := by
  rw [rowRotInv]
  exact scatter_getElem B rowRotIndex_involutive.injective i

theorem colRotInv_eq_colRot : colRotInv B = colRot B := by
  refine block_ext fun i => ?_
  rw [colRot_getElem_index, colRotInv]
  exact scatter_getElem_of_involutive B colRotIndex_involutive i

theorem rowRotInv_eq_rowRot : rowRotInv B = rowRot B := by
  refine block_ext fun i => ?_
  rw [rowRot_getElem_index, rowRotInv]
  exact scatter_getElem_of_involutive B rowRotIndex_involutive i

theorem colRot_colRot : colRot (colRot B) = B :=
  block_ext fun i => by simp only [colRot_getElem_index, colRotIndex_involutive i]

theorem rowRot_rowRot : rowRot (rowRot B) = B :=
  block_ext fun i => by simp only [rowRot_getElem_index, rowRotIndex_involutive i]

end Rotations

/-! ### The fixed swap (R122) -/

section FixedSwap

variable (B : Block)

/-- The writes that one pair stands for. -/
def pairWrites (p : Fin 16 × Fin 16) : List (Fin 16 × Byte) := [(p.1, B[p.2]), (p.2, B[p.1])]

theorem fixedSwap_eq_writeBytes : fixedSwap B = writeBytes (swapPairs.flatMap (pairWrites B)) B := by
  rw [fixedSwap, writeBytes, List.foldl_flatMap]
  rfl

/-- The pairs name no index twice, so both writes of each pair stand. -/
theorem fixedSwap_getElem_of_mem_swapPairs {p : Fin 16 × Fin 16} (hp : p ∈ swapPairs) :
    (fixedSwap B)[p.1] = B[p.2] ∧ (fixedSwap B)[p.2] = B[p.1] := by
  obtain ⟨-, hnodup, -⟩ := swapPairsCoverBlock
  have hstays {w : Fin 16 × Byte} (hw : w ∈ pairWrites B p) : (fixedSwap B)[w.1] = w.2 := by
    rw [fixedSwap_eq_writeBytes]
    refine writeBytes_getElem_of_mem ?_ (List.mem_flatMap.mpr ⟨p, hp, hw⟩) B
    rw [List.map_flatMap]
    exact hnodup
  exact ⟨hstays (w := (p.1, B[p.2])) (by simp [pairWrites]), hstays (w := (p.2, B[p.1])) (by simp [pairWrites])⟩

/-- Of any two indices that the list pairs, in either order, each gets the other's byte. -/
theorem fixedSwap_getElem_of_paired {i j : Fin 16} (h : (i, j) ∈ swapPairs ∨ (j, i) ∈ swapPairs) :
    (fixedSwap B)[i] = B[j] :=
  h.elim (fun h => (fixedSwap_getElem_of_mem_swapPairs B h).1) fun h => (fixedSwap_getElem_of_mem_swapPairs B h).2

/-- Every index is in a pair, and swapping a pair twice restores both its bytes. -/
theorem fixedSwap_fixedSwap : fixedSwap (fixedSwap B) = B := by
  obtain ⟨-, -, hcover⟩ := swapPairsCoverBlock
  refine block_ext fun i => ?_
  obtain ⟨p, hp, hi⟩ := hcover i
  obtain ⟨hfst, hsnd⟩ := fixedSwap_getElem_of_mem_swapPairs B hp
  obtain ⟨hfst', hsnd'⟩ := fixedSwap_getElem_of_mem_swapPairs (fixedSwap B) hp
  rcases hi with rfl | rfl
  · exact hfst'.trans hsnd
  · exact hsnd'.trans hfst

end FixedSwap

/-! ### The settled statements -/

/-- Settles O11: the gathers as defined, the scatters along involutions of the indices, and the swap pair by pair; that
the list of sources names each index's partner is decided. -/
theorem bytePermutationSources : Obligations.BytePermutationSources := by
  intro B i
  exact ⟨colRot_getElem_index B i, colRotInv_getElem_index B i, colRotInv_eq_colRot B,
    fixedSwap_getElem_of_paired B (by decide +revert), fun _ hp => fixedSwap_getElem_of_mem_swapPairs B hp,
    rowRot_getElem_index B i, rowRotInv_getElem_index B i, rowRotInv_eq_rowRot B⟩

/-- Settles O12: each operation undoes itself, and `ROW_ROT_INV` is `ROW_ROT`. -/
theorem bytePermutationInverses : Obligations.BytePermutationInverses := by
  intro B
  rw [rowRotInv_eq_rowRot, rowRotInv_eq_rowRot]
  exact ⟨colRot_colRot B, fixedSwap_fixedSwap B, rowRot_rowRot B, rowRot_rowRot B⟩

end Sys2Proof.Machine
end

section
/-! PROOFS, bit mixing (spec 42_bit_mixing.md). First each bit of what the pair mix computes, the chains of pair steps
and the bytes they leave alone; then the statements settled. -/

namespace Sys2Proof.Machine

/-! ### Bits of a pair of bytes (R17, R140, R141) -/

section Bits

variable (u l : Byte) (v : BitVec 16)

theorem getLsbD_rotl16 {n j : Nat} (hn : n ≤ 16) (hj : j < 16) :
    (rotl16 v n).getLsbD j = v.getLsbD ((j + (16 - n)) % 16) := by
  rcases Nat.lt_or_ge j n with hlt | hge
  · have e : (j + (16 - n)) % 16 = 16 - n + j := by omega
    simp [rotl16, hlt, hj, e]
  · have e : (j + (16 - n)) % 16 = j - n := by omega
    have hhigh : v.getLsbD (16 - n + j) = false := v.getLsbD_of_ge _ (by omega)
    simp only [rotl16, BitVec.getLsbD_or, BitVec.getLsbD_shiftLeft, BitVec.getLsbD_ushiftRight, e, hhigh]
    simp [hj, hge]

theorem getLsbD_rotr16 {n j : Nat} (hn : n ≤ 16) (hj : j < 16) :
    (rotr16 v n).getLsbD j = v.getLsbD ((j + n) % 16) := by
  have hcomm : rotr16 v n = rotl16 v (16 - n) := by
    rw [rotr16, rotl16, BitVec.or_comm, Nat.sub_sub_self hn]
  rw [hcomm, getLsbD_rotl16 v (Nat.sub_le ..) hj, Nat.sub_sub_self hn]

theorem rotr16_rotl16 {n : Nat} (hn : n ≤ 16) : rotr16 (rotl16 v n) n = v := by
  refine BitVec.eq_of_getLsbD_eq fun j hj => ?_
  rw [getLsbD_rotr16 _ hn hj, getLsbD_rotl16 _ hn (Nat.mod_lt _ (by omega))]
  congr 1
  omega

theorem rotl16_rotr16 {n : Nat} (hn : n ≤ 16) : rotl16 (rotr16 v n) n = v := by
  refine BitVec.eq_of_getLsbD_eq fun j hj => ?_
  rw [getLsbD_rotl16 _ hn hj, getLsbD_rotr16 _ hn (Nat.mod_lt _ (by omega))]
  congr 1
  omega

/-- R17: `{a, b}` is the library's append. -/
theorem pair16_eq_append : pair16 u l = u ++ l := by
  rw [BitVec.append_def, BitVec.shiftLeftZeroExtend_eq]
  rfl

theorem getLsbD_pair16 (j : Nat) : (pair16 u l).getLsbD j = if j < 8 then l.getLsbD j else u.getLsbD (j - 8) := by
  rw [pair16_eq_append, BitVec.getLsbD_append]

theorem getLsbD_interleave (j : Nat) :
    (interleave u l).getLsbD j = if j % 2 = 1 then u.getLsbD (j / 2) else l.getLsbD (j / 2) := by
  rw [interleave, BitVec.getLsbD_ofFnLE]
  split
  · rfl
  · simp [BitVec.getLsbD_of_ge _ (j / 2) (by omega : 8 ≤ j / 2)]

theorem getLsbD_deinterleave_fst {k : Nat} (hk : k < 8) : (deinterleave v).1.getLsbD k = v.getLsbD (2 * k + 1) := by
  simp [deinterleave, hk]

theorem getLsbD_deinterleave_snd {k : Nat} (hk : k < 8) : (deinterleave v).2.getLsbD k = v.getLsbD (2 * k) := by
  simp [deinterleave, hk]

theorem deinterleave_interleave : deinterleave (interleave u l) = (u, l) := by
  refine Prod.ext (BitVec.eq_of_getLsbD_eq fun k hk => ?_) (BitVec.eq_of_getLsbD_eq fun k hk => ?_)
  · rw [getLsbD_deinterleave_fst _ hk, getLsbD_interleave, if_pos (by omega)]
    congr 1
    omega
  · rw [getLsbD_deinterleave_snd _ hk, getLsbD_interleave, if_neg (by omega)]
    congr 1
    omega

theorem interleave_deinterleave : interleave (deinterleave v).1 (deinterleave v).2 = v := by
  refine BitVec.eq_of_getLsbD_eq fun j hj => ?_
  rw [getLsbD_interleave]
  split
  · rw [getLsbD_deinterleave_fst _ (by omega)]
    congr 1
    omega
  · rw [getLsbD_deinterleave_snd _ (by omega)]
    congr 1
    omega

/-- R15: a byte's bits, listed from bit 7 down, are the values of any function that gives its bits. -/
theorem bitsMsbFirst_eq_map {b : Byte} {bit : Nat → Bool} (h : ∀ k < 8, b.getLsbD k = bit k) :
    bitsMsbFirst b = [7, 6, 5, 4, 3, 2, 1, 0].map bit :=
  List.map_congr_left (l := [7, 6, 5, 4, 3, 2, 1, 0]) fun k hk => h k (by decide +revert)

end Bits

/-! ### The pair mix (R140, R141, R144) -/

section Pair

variable (u l : Byte)

theorem pair16_pairMix : pair16 (pairMix u l).1 (pairMix u l).2 = rotl16 (interleave u l) 4 := by
  rw [pair16_eq_append, pairMix]
  exact BitVec.extractLsb'_append_extractLsb' (w := 8) (len := 8)

theorem interleave_pairUnmix : interleave (pairUnmix u l).1 (pairUnmix u l).2 = rotr16 (pair16 u l) 4 := by
  rw [pairUnmix, interleave_deinterleave]

theorem pairUnmix_pairMix : pairUnmix (pairMix u l).1 (pairMix u l).2 = (u, l) := by
  rw [pairUnmix, pair16_pairMix, rotr16_rotl16 _ (by decide), deinterleave_interleave]

theorem pairMix_pairUnmix : pairMix (pairUnmix u l).1 (pairUnmix u l).2 = (u, l) := by
  rw [pairMix, interleave_pairUnmix, rotl16_rotr16 _ (by decide), pair16_eq_append]
  exact Prod.ext BitVec.extractLsb'_append_eq_left BitVec.extractLsb'_append_eq_right

theorem getLsbD_pairMix_fst {k : Nat} (hk : k < 8) :
    (pairMix u l).1.getLsbD k = (interleave u l).getLsbD (k + 4) := by
  have e : (8 + k + (16 - 4)) % 16 = k + 4 := by omega
  rw [pairMix, BitVec.getLsbD_extractLsb', getLsbD_rotl16 _ (by decide) (by omega), e]
  simp [hk]

theorem getLsbD_pairMix_snd {k : Nat} (hk : k < 8) :
    (pairMix u l).2.getLsbD k = (interleave u l).getLsbD ((k + 12) % 16) := by
  rw [pairMix, BitVec.getLsbD_extractLsb', getLsbD_rotl16 _ (by decide) (by omega), Nat.zero_add]
  simp [hk]

theorem getLsbD_pairUnmix_fst {k : Nat} (hk : k < 8) :
    (pairUnmix u l).1.getLsbD k = (pair16 u l).getLsbD ((2 * k + 5) % 16) := by
  rw [pairUnmix, getLsbD_deinterleave_fst _ hk, getLsbD_rotr16 _ (by decide) (by omega)]

theorem getLsbD_pairUnmix_snd {k : Nat} (hk : k < 8) :
    (pairUnmix u l).2.getLsbD k = (pair16 u l).getLsbD ((2 * k + 4) % 16) := by
  rw [pairUnmix, getLsbD_deinterleave_snd _ hk, getLsbD_rotr16 _ (by decide) (by omega)]

end Pair

/-! ### The chains (R142, R143, R144) -/

section Chain

variable {f g : Byte → Byte → Byte × Byte}

/-- A step undoes the step at the same pair whose pair function it undoes. -/
theorem pairStep_pairStep (hfg : ∀ u l, g (f u l).1 (f u l).2 = (u, l)) (T : Block) (i : Fin 15) :
    pairStep g (pairStep f T i) i = T := by
  have hfst : (pairStep f T i)[i.val] = (f T[i.val] T[i.val + 1]).1 := by simp [pairStep_getElem]
  have hsnd : (pairStep f T i)[i.val + 1] = (f T[i.val] T[i.val + 1]).2 := by simp [pairStep_getElem]
  refine block_ext fun j => ?_
  simp only [Fin.getElem_fin, pairStep_getElem _ _ _ g, hfst, hsnd, hfg]
  split_ifs with hsucc hself
  · simp only [hsucc]
  · simp only [hself]
  · simp only [pairStep_getElem, hsucc, hself, if_false]

/-- Steps that undo the given ones one by one undo them all when run in reverse order. -/
theorem foldl_reverse_pairStep (hfg : ∀ u l, g (f u l).1 (f u l).2 = (u, l)) (is : List (Fin 15)) (T : Block) :
    is.reverse.foldl (pairStep g) (is.foldl (pairStep f) T) = T := by
  induction is generalizing T with
  | nil => rfl
  | cons i is ih => simp [ih, pairStep_pairStep hfg]

theorem chainDown_eq_reverse : chainDown = chainUp.reverse := rfl

theorem chainUp_eq_reverse : chainUp = chainDown.reverse := rfl

theorem blockUnmix_blockMix (B : Block) : blockUnmix (blockMix B) = B := by
  rw [blockUnmix, blockMix, chainDown_eq_reverse]
  exact foldl_reverse_pairStep pairUnmix_pairMix chainUp B

theorem blockMix_blockUnmix (B : Block) : blockMix (blockUnmix B) = B := by
  rw [blockMix, blockUnmix, chainUp_eq_reverse]
  exact foldl_reverse_pairStep pairMix_pairUnmix chainDown B

/-- The two blocks have the same bytes at the indices below m. -/
def agreeBelow (m : Nat) (T T' : Block) : Prop := ∀ i : Fin 16, i.val < m → T[i] = T'[i]

/-- Only the step at the pair m-1, m reads a byte from m on and writes one below m. -/
theorem agreeBelow_pairStep {m : Nat} {T T' : Block} {k : Fin 15} (hk : k.val + 1 ≠ m) (h : agreeBelow m T T') :
    agreeBelow m (pairStep f T k) (pairStep f T' k) := by
  intro i hi
  have hsame : T[i] = T'[i] := h i hi
  simp only [Fin.getElem_fin, pairStep_getElem]
  rcases Nat.lt_or_ge k.val m with hlt | hge
  · have hfst : T[k.val] = T'[k.val] := h ⟨k.val, by omega⟩ hlt
    have hsnd : T[k.val + 1] = T'[k.val + 1] := h ⟨k.val + 1, by omega⟩ (show k.val + 1 < m by omega)
    simp only [hfst, hsnd, ← Fin.getElem_fin, hsame]
  · rw [if_neg (by omega), if_neg (by omega), if_neg (by omega), if_neg (by omega)]
    exact hsame

theorem agreeBelow_foldl_pairStep {m : Nat} {ks : List (Fin 15)} (hks : ∀ k ∈ ks, k.val + 1 ≠ m) {T T' : Block}
    (h : agreeBelow m T T') : agreeBelow m (ks.foldl (pairStep f) T) (ks.foldl (pairStep f) T') := by
  induction ks generalizing T T' with
  | nil => exact h
  | cons k ks ih =>
    obtain ⟨hk, hks⟩ := List.forall_mem_cons.mp hks
    exact ih hks (agreeBelow_pairStep hk h)

theorem lt_of_mem_take_chainUp (j : Fin 16) : ∀ k ∈ chainUp.take j, k.val < j := by decide +revert

theorem le_of_mem_drop_chainUp (j : Fin 16) : ∀ k ∈ chainUp.drop j, j ≤ k.val := by decide +revert

/-- R142: the steps before pair j, j+1 keep agreement up to j, and those from it on keep agreement below j. -/
theorem agreeBelow_blockMix {j : Fin 16} {B B' : Block} (h : agreeBelow (j + 1) B B') :
    agreeBelow j (blockMix B) (blockMix B') := by
  rw [blockMix, blockMix, ← List.take_append_drop j chainUp, List.foldl_append, List.foldl_append]
  have htake : ∀ k ∈ chainUp.take j, k.val + 1 ≠ j + 1 := fun k hk => by
    have := lt_of_mem_take_chainUp j k hk
    omega
  have hdrop : ∀ k ∈ chainUp.drop j, k.val + 1 ≠ j := fun k hk => by
    have := le_of_mem_drop_chainUp j k hk
    omega
  exact agreeBelow_foldl_pairStep hdrop fun i hi => agreeBelow_foldl_pairStep htake h i (by omega)

theorem pairStep_replicate {b : Byte} (hb : f b b = (b, b)) (k : Fin 15) :
    pairStep f (Vector.replicate 16 b) k = Vector.replicate 16 b := by
  refine block_ext fun i => ?_
  simp [pairStep_getElem, hb]

/-- A fixed point of the pair mix, repeated, is one of the block mix. -/
theorem blockMix_replicate {b : Byte} (hb : pairMix b b = (b, b)) :
    blockMix (Vector.replicate 16 b) = Vector.replicate 16 b := by
  rw [blockMix]
  exact List.foldl_fixed' (pairStep_replicate hb) chainUp

end Chain

/-! ### The settled statements -/

/-- Settles O15: the pair mix is undone rotation by rotation and bit by bit, and a chain by the undoing steps in reverse
order. -/
theorem mixInverses : Obligations.MixInverses :=
  ⟨fun u l => ⟨pairUnmix_pairMix u l, pairMix_pairUnmix u l⟩,
    fun B => ⟨blockUnmix_blockMix B, blockMix_blockUnmix B⟩⟩

/-- Settles O17: agreement up to j becomes agreement below j, and each fixed block repeats a fixed point of the pair
mix. -/
theorem blockMixRunsLeftToRight : Obligations.BlockMixRunsLeftToRight := by
  refine ⟨fun B B' j h i hi => ?_, ?_, ?_⟩
  · exact agreeBelow_blockMix (fun i hi => h i (Nat.lt_succ_iff.mp hi)) i hi
  · exact blockMix_replicate (by decide +kernel)
  · exact blockMix_replicate (by decide +kernel)

/-- Settles O14: each bit listed is the one the rotation and the interleaving put there. -/
theorem pairMixBits : Obligations.PairMixBits := by
  intro x y
  refine ⟨?_, ?_, ?_, ?_⟩
  · exact bitsMsbFirst_eq_map fun k hk => (getLsbD_pairMix_fst x y hk).trans (getLsbD_interleave x y _)
  · exact bitsMsbFirst_eq_map fun k hk => (getLsbD_pairMix_snd x y hk).trans (getLsbD_interleave x y _)
  · exact bitsMsbFirst_eq_map fun k hk => (getLsbD_pairUnmix_fst x y hk).trans (getLsbD_pair16 x y _)
  · exact bitsMsbFirst_eq_map fun k hk => (getLsbD_pairUnmix_snd x y hk).trans (getLsbD_pair16 x y _)

/-- Settles O16: the chain run upward, evaluated; byte 0 is already not the input's. -/
theorem unmixUpwardIsWrong : Obligations.UnmixUpwardIsWrong := by
  have hup : chainUp.foldl (pairStep pairUnmix) (blockMix blockI) =
      #v[0x01, 0x00, 0x01, 0x00, 0x91, 0x90, 0x11, 0x30, 0xA1, 0xA0, 0x21, 0x20, 0xB1, 0xB0, 0x70, 0x23] := by
    decide +kernel
  exact ⟨hup, by rw [hup]; decide⟩

end Sys2Proof.Machine
end

section
/-! PROOFS, round function (spec 43_round_function.md). First that each of its layers is undone by its inverse, then the
statements settled. -/

namespace Sys2Proof.Machine

variable (t : Tables) (B K : Block)

/-! ### The XORs (R160, R161) -/

theorem keyXor_keyXor : keyXor (keyXor B K) K = B :=
  block_ext fun i => by simp

theorem keyXor_zero : keyXor B Block.zero = B :=
  block_ext fun i => by simp

theorem maskXor_maskXor : maskXor t (maskXor t B) = B :=
  block_ext fun i => by simp

/-! ### The inverse substitution (R163) -/

/-- Where every byte has a preimage, the lookups together are a block. -/
theorem exists_block_invSbox (h : ∀ i : Fin 16, ∃ k : Byte, t.sbox k = B[i]) :
    ∃ T : Block, ∀ i : Fin 16, invSbox t B[i] = some T[i] := by
  have hsome : ∀ i : Fin 16, ∃ k : Byte, invSbox t B[i] = some k := fun i =>
    Option.ne_none_iff_exists'.mp fun hnone => (h i).elim ((invSbox_eq_none_iff t).mp hnone)
  choose T hT using hsome
  exact ⟨Vector.ofFn T, fun i => by simpa using hT i⟩

theorem invSubBlock_subBlock (ha : t.admitted = true) : invSubBlock t (subBlock t B) = .ok B :=
  invSubBlock_ok t _ fun i => (invSbox_eq_some_iff_of_admitted t ha).mpr (subBlock_getElem t B i i.isLt).symm

/-! ### The pipelines and the round (R164 to R168) -/

theorem invPipe_fwdPipe : invPipe t (fwdPipe t B) = B := by
  simp only [invPipe, fwdPipe, blockUnmix_blockMix, fixedSwap_fixedSwap, rowRotInv_eq_rowRot, rowRot_rowRot,
    maskXor_maskXor, colRotInv_eq_colRot, colRot_colRot]

theorem fwdPipe_invPipe : fwdPipe t (invPipe t B) = B := by
  simp only [invPipe, fwdPipe, blockMix_blockUnmix, fixedSwap_fixedSwap, rowRotInv_eq_rowRot, rowRot_rowRot,
    maskXor_maskXor, colRotInv_eq_colRot, colRot_colRot]

/-- R167: a round of decryption whose substitution does not raise ends with the key XOR. -/
theorem decRound_of_invSubBlock_ok {T : Block} (hT : invSubBlock t (invPipe t B) = .ok T) :
    decRound t B K = .ok (keyXor T K) := by
  simp only [decRound, hT]

theorem decRound_encRound (ha : t.admitted = true) : decRound t (encRound t B K) K = .ok B := by
  have hsub : invSubBlock t (invPipe t (encRound t B K)) = .ok (keyXor B K) := by
    rw [encRound, invPipe_fwdPipe, invSubBlock_subBlock t _ ha]
  rw [decRound_of_invSubBlock_ok t _ K hsub, keyXor_keyXor]

/-! ### The settled statements -/

/-- Settles O19: a byte without a preimage raises; otherwise the lookups of all bytes are the result; and under an
admitted table the lookup of a substituted byte is the byte itself. -/
theorem invSubBlockLaw : Obligations.InvSubBlockLaw := by
  refine fun t B => ⟨fun ⟨i, hi⟩ => ?_, fun h => ?_, invSubBlock_subBlock t B⟩
  · exact invSubBlock_raises t B ((invSbox_eq_none_iff t).mpr hi)
  · obtain ⟨T, hT⟩ := exists_block_invSbox t B h
    exact ⟨T, invSubBlock_ok t B hT, fun i => (invSubByte_eq_ok_iff t).mpr (hT i)⟩

/-- Settles O20: each pipeline undoes the other layer by layer, and a round adds the substitution and the key XOR. -/
theorem roundInverses : Obligations.RoundInverses :=
  fun t B K => ⟨invPipe_fwdPipe t B, fwdPipe_invPipe t B, decRound_encRound t B K⟩

/-- Settles O18: the three operations as defined, and XOR with the same byte twice cancels. -/
theorem xorAndSubstituteByteByByte : Obligations.XorAndSubstituteByteByByte := by
  refine fun t B K => ⟨fun i => ?_, keyXor_keyXor B K, keyXor_zero B, maskXor_maskXor t B⟩
  exact ⟨keyXor_getElem B K i i.isLt, maskXor_getElem t B i i.isLt, subBlock_getElem t B i i.isLt⟩

end Sys2Proof.Machine
end

section
/-! PROOFS, cipher engine (spec 44_cipher_engine.md). First the cipher as a function: that it is undone round by round,
that both commands are lists of datapath steps, and where its rounds move each bit under T0. Then the engine that runs
it: the state at each round boundary, and that no move raises CorruptTableError over admitted tables. Then the
statements settled. -/

namespace Sys2Proof.Machine

variable (t : Tables) (B C K : Block)

/-! ### Undoing the rounds (R183, R185) -/

/-- R102: an admitted table is onto, byte by byte. -/
theorem exists_subBlock_eq (ha : t.admitted = true) : ∃ S : Block, subBlock t S = B := by
  choose S hS using fun i : Fin 16 => ((admitted_iff_bijective t).mp ha).surjective B[i]
  exact ⟨Vector.ofFn S, block_ext fun i => by simpa using hS i⟩

theorem exists_encRound_eq (ha : t.admitted = true) : ∃ P : Block, encRound t P K = B := by
  obtain ⟨S, hS⟩ := exists_subBlock_eq t (invPipe t B) ha
  exact ⟨keyXor S K, by rw [encRound, keyXor_keyXor, hS, fwdPipe_invPipe]⟩

theorem exists_encRounds_eq (ha : t.admitted = true) (r : Nat) : ∃ P : Block, encRounds t P K r = B := by
  induction r generalizing B with
  | zero => exact ⟨B, rfl⟩
  | succ r ih =>
    obtain ⟨E, hE⟩ := exists_encRound_eq t B K ha
    obtain ⟨P, hP⟩ := ih E
    exact ⟨P, by rw [encRounds_succ, hP, hE]⟩

/-- With admitted tables every block is the ciphertext of some block. -/
theorem exists_encryptBlock_eq (ha : t.admitted = true) : ∃ P : Block, encryptBlock t P K = C := by
  obtain ⟨P, hP⟩ := exists_encRounds_eq t (keyXor C K) K ha rounds
  exact ⟨P, by rw [encryptBlock, hP, keyXor_keyXor]⟩

/-- R167, R201: with admitted tables a round of decryption never raises. -/
theorem exists_decRound_eq_ok (ha : t.admitted = true) : ∃ P : Block, decRound t C K = .ok P := by
  obtain ⟨P, rfl⟩ := exists_encRound_eq t C K ha
  exact ⟨P, decRound_encRound t P K ha⟩

variable {C K}

theorem decRounds_succ_of_ok {r : Nat} {D : Block} (hD : decRounds t C K r = .ok D) :
    decRounds t C K (r + 1) = decRound t D K := by
  simp only [decRounds, hD]

theorem decRounds_succ_of_error {r : Nat} {e : EngineError} (he : decRounds t C K r = .error e) :
    decRounds t C K (r + 1) = .error e := by
  simp only [decRounds, he]

/-- R203: a round is reached only by a value of the round before it. -/
theorem decRounds_succ_eq_ok {r : Nat} {D : Block} (hD : decRounds t C K (r + 1) = .ok D) :
    ∃ D' : Block, decRounds t C K r = .ok D' ∧ decRound t D' K = .ok D := by
  cases hr : decRounds t C K r with
  | ok D' => exact ⟨D', rfl, (decRounds_succ_of_ok t hr).symm.trans hD⟩
  | error e => exact nomatch (decRounds_succ_of_error t hr).symm.trans hD

variable (C K)

/-- R185: round by round, decryption takes off the last round that encryption put on. -/
theorem decRounds_encryptBlock (ha : t.admitted = true) {r : Nat} (hr : r ≤ 16) :
    decRounds t (encryptBlock t B K) K r = .ok (encRounds t B K (16 - r)) := by
  induction r with
  | zero => rw [decRounds_zero, encryptBlock, keyXor_keyXor, Nat.sub_zero]
  | succ r ih =>
    have hlast : 16 - r = 16 - (r + 1) + 1 := by omega
    rw [decRounds_succ_of_ok t (ih (by omega)), hlast, encRounds_succ, decRound_encRound t _ _ ha]

theorem decryptBlock_encryptBlock (ha : t.admitted = true) : decryptBlock t (encryptBlock t B K) K = .ok B :=
  decRounds_encryptBlock t B K ha le_rfl

/-- With admitted tables there is a value at every round boundary of a decryption, since what is decrypted is a
ciphertext. -/
theorem exists_decRounds_eq_ok (ha : t.admitted = true) {r : Nat} (hr : r ≤ 16) :
    ∃ D : Block, decRounds t C K r = .ok D := by
  obtain ⟨P, rfl⟩ := exists_encryptBlock_eq t C K ha
  exact ⟨_, decRounds_encryptBlock t P K ha hr⟩

/-! ### The commands as lists of datapath steps (R184) -/

theorem microRun_append_of_error (xs ys : List MicroOp) {S : Block} {e : EngineError}
    (hx : microRun t K xs S = .error e) : microRun t K (xs ++ ys) S = .error e := by
  induction xs generalizing S with
  | nil => cases hx
  | cons op ops ih =>
    simp only [microRun, List.cons_append] at hx ⊢
    split at hx
    · exact ih hx
    · exact hx

theorem repeatOps_succ (n : Nat) (ops : List MicroOp) : repeatOps (n + 1) ops = repeatOps n ops ++ ops := by
  simp [repeatOps, List.replicate_succ']

theorem microRun_encRoundOps : microRun t K encRoundOps B = .ok (encRound t B K) := by
  simp only [encRoundOps, microRun, microStep, encRound, fwdPipe]

theorem microRun_decRoundOps : microRun t K decRoundOps C = decRound t C K := by
  cases hsub : invSubBlock t (invPipe t C) with
  | ok T =>
    rw [decRound_of_invSubBlock_ok t C K hsub]
    rw [invPipe] at hsub
    simp only [decRoundOps, microRun, microStep, hsub]
  | error e =>
    have hraise : decRound t C K = .error e := by simp only [decRound, hsub]
    rw [hraise]
    rw [invPipe] at hsub
    simp only [decRoundOps, microRun, microStep, hsub]

theorem microRun_repeatOps_encRoundOps (r : Nat) :
    microRun t K (repeatOps r encRoundOps) B = .ok (encRounds t B K r) := by
  induction r with
  | zero => rfl
  | succ r ih => rw [repeatOps_succ, microRun_append t K _ _ ih, microRun_encRoundOps, encRounds_succ]

theorem microRun_repeatOps_decRoundOps (r : Nat) :
    microRun t K ([.keyXor] ++ repeatOps r decRoundOps) C = decRounds t C K r := by
  induction r with
  | zero => rfl
  | succ r ih =>
    rw [repeatOps_succ, ← List.append_assoc]
    cases hr : decRounds t C K r with
    | ok D => rw [microRun_append t K _ _ (ih.trans hr), microRun_decRoundOps, decRounds_succ_of_ok t hr]
    | error e => rw [microRun_append_of_error t K _ _ (ih.trans hr), decRounds_succ_of_error t hr]

theorem encryptOps_length : encryptOps.length = 145 := by
  simp [encryptOps, repeatOps, encRoundOps, rounds]

/-- R184: `DECRYPT`'s list is `ENCRYPT`'s in reverse order, step by step inverted. -/
theorem decryptOps_eq_map_inverseOp_reverse : decryptOps = encryptOps.reverse.map inverseOp := by decide

/-- R126, R144, R160, R161, R163: each datapath step is undone by its inverse. -/
theorem microStep_inverseOp (ha : t.admitted = true) (op : MicroOp) {S T : Block}
    (h : microStep t K op S = .ok T) : microStep t K (inverseOp op) T = .ok S := by
  cases op with
  | invSubBlock =>
    obtain ⟨S, rfl⟩ := exists_subBlock_eq t S ha
    cases (invSubBlock_subBlock t S ha).symm.trans h
    rfl
  | subBlock => cases h; exact invSubBlock_subBlock t S ha
  | keyXor => cases h; exact congrArg Except.ok (keyXor_keyXor S K)
  | maskXor => cases h; exact congrArg Except.ok (maskXor_maskXor t S)
  | fixedSwap => cases h; exact congrArg Except.ok (fixedSwap_fixedSwap S)
  | blockMix => cases h; exact congrArg Except.ok (blockUnmix_blockMix S)
  | blockUnmix => cases h; exact congrArg Except.ok (blockMix_blockUnmix S)
  | colRot => cases h; exact congrArg Except.ok ((colRotInv_eq_colRot _).trans (colRot_colRot S))
  | colRotInv => cases h; simp only [inverseOp, microStep, colRotInv_eq_colRot, colRot_colRot]
  | rowRot => cases h; exact congrArg Except.ok ((rowRotInv_eq_rowRot _).trans (rowRot_rowRot S))
  | rowRotInv => cases h; simp only [inverseOp, microStep, rowRotInv_eq_rowRot, rowRot_rowRot]

/-! ### Under T0 a round moves bits and nothing else (R188) -/

/-- The place of a bit in a block: its byte and its bit there. -/
abbrev BitPlace := Fin 16 × Fin 8

def bitAt (p : BitPlace) : Bool := B[p.1].getLsbD p.2

variable {B} in
theorem block_ext_bitAt {T : Block} (h : ∀ p, bitAt B p = bitAt T p) : B = T :=
  block_ext fun i => BitVec.eq_of_getLsbD_eq fun j hj => h (i, ⟨j, hj⟩)

@[simp] theorem bitAt_keyXor (p : BitPlace) : bitAt (keyXor B K) p = (bitAt B p ^^ bitAt K p) := by simp [bitAt]

@[simp] theorem bitAt_zero (p : BitPlace) : bitAt Block.zero p = false := by simp [bitAt]

/-- The block with one bit set. -/
def oneBit (q : BitPlace) : Block := Vector.ofFn fun i : Fin 16 => if i = q.1 then BitVec.twoPow 8 q.2 else 0

@[simp] theorem bitAt_oneBit (q p : BitPlace) : bitAt (oneBit q) p = decide (p = q) := by
  by_cases h : p.1 = q.1
  · simp [bitAt, oneBit, h, Prod.ext_iff, Fin.ext_iff, eq_comm]
  · simp [bitAt, oneBit, h, Prod.ext_iff]

/-- Every bit of the function's result is the argument's bit at the place `src` gives. -/
def TakesBitsFrom (f : Block → Block) (src : BitPlace → BitPlace) : Prop :=
  ∀ B p, bitAt (f B) p = bitAt B (src p)

section TakesBitsFrom

variable {f g : Block → Block} {src src' : BitPlace → BitPlace}

theorem TakesBitsFrom.comp (hg : TakesBitsFrom g src') (hf : TakesBitsFrom f src) :
    TakesBitsFrom (g ∘ f) (src ∘ src') :=
  fun B p => (hg (f B) p).trans (hf B (src' p))

theorem TakesBitsFrom.iterate (hf : TakesBitsFrom f src) (n : Nat) : TakesBitsFrom f^[n] src^[n] := by
  induction n with
  | zero => exact fun _ _ => rfl
  | succ n ih =>
    rw [Function.iterate_succ', Function.iterate_succ]
    exact hf.comp ih

theorem takesBitsFrom_of_bytes {src : Fin 16 → Fin 16} (h : ∀ B i, (f B)[i] = B[src i]) :
    TakesBitsFrom f (Prod.map src id) :=
  fun B p => congrArg (·.getLsbD p.2.val) (h B p.1)

/-- A function that only moves bits carries XOR to XOR. -/
theorem TakesBitsFrom.map_keyXor (hf : TakesBitsFrom f src) (A B : Block) : f (keyXor A B) = keyXor (f A) (f B) :=
  block_ext_bitAt fun p => by simp only [hf _ p, bitAt_keyXor]

/-- If it loses no block, it loses no bit: one that stands nowhere in the result would be as good as 0. -/
theorem TakesBitsFrom.surjective (hf : TakesBitsFrom f src) (hinj : Function.Injective f) :
    Function.Surjective src := by
  intro q
  by_contra hlost
  have hzero : f (oneBit q) = f Block.zero :=
    block_ext_bitAt fun p => by rw [hf, hf, bitAt_oneBit, bitAt_zero, decide_eq_false fun h => hlost ⟨p, h⟩]
  simpa using congrArg (bitAt · q) (hinj hzero)

/-- So each bit goes to the one place that takes it. -/
theorem TakesBitsFrom.map_oneBit (hf : TakesBitsFrom f src) (hinj : Function.Injective f) {p q : BitPlace}
    (h : src p = q) : f (oneBit q) = oneBit p := by
  have hsrc : Function.Injective src := Finite.injective_iff_surjective.mpr (hf.surjective hinj)
  exact block_ext_bitAt fun p' => by simp only [hf _ _, bitAt_oneBit, ← h, hsrc.eq_iff]

end TakesBitsFrom

/-- R140: where bit n of the interleaved pair k, k+1 stands. -/
def interleaveSource (k : Fin 15) (n : Fin 16) : BitPlace :=
  (if n.val % 2 = 1 then k.castSucc else k.succ, ⟨n.val / 2, by omega⟩)

/-- R140: where a bit comes from in the pair mix at k, k+1. -/
def pairSource (k : Fin 15) (p : BitPlace) : BitPlace :=
  if p.1 = k.succ then interleaveSource k ⟨(p.2.val + 12) % 16, by omega⟩
  else if p.1 = k.castSucc then interleaveSource k ⟨p.2.val + 4, by omega⟩
  else p

theorem bitAt_interleaveSource (k : Fin 15) (n : Fin 16) :
    bitAt B (interleaveSource k n) = (interleave B[k.val] B[k.val + 1]).getLsbD n := by
  rw [getLsbD_interleave, interleaveSource]
  split <;> rfl

theorem pairStep_pairMix_takesBitsFrom (k : Fin 15) : TakesBitsFrom (pairStep pairMix · k) (pairSource k) := by
  intro B p
  simp only [bitAt, Fin.getElem_fin, pairStep_getElem, pairSource, Fin.ext_iff, Fin.val_succ, Fin.val_castSucc]
  split_ifs
  · exact (getLsbD_pairMix_snd _ _ p.2.isLt).trans (bitAt_interleaveSource B k ⟨_, _⟩).symm
  · exact (getLsbD_pairMix_fst _ _ p.2.isLt).trans (bitAt_interleaveSource B k ⟨_, _⟩).symm
  · rfl

/-- R142: where a bit comes from in a chain of pair mixes, the last step's source looked up first. -/
def chainSource (ks : List (Fin 15)) (p : BitPlace) : BitPlace := ks.foldr pairSource p

theorem foldl_pairStep_takesBitsFrom (ks : List (Fin 15)) :
    TakesBitsFrom (ks.foldl (pairStep pairMix)) (chainSource ks) := by
  induction ks with
  | nil => exact fun _ _ => rfl
  | cons k ks ih => exact ih.comp (pairStep_pairMix_takesBitsFrom k)

theorem blockMix_takesBitsFrom : TakesBitsFrom blockMix (chainSource chainUp) := by
  intro B p
  rw [blockMix]
  exact foldl_pairStep_takesBitsFrom chainUp B p

/-- The index paired with an index (R10). -/
def swapIndex (i : Fin 16) : Fin 16 :=
  ([6, 7, 4, 10, 2, 12, 0, 1, 14, 15, 3, 13, 5, 11, 8, 9] : List (Fin 16))[i]

theorem fixedSwap_getElem_index (i : Fin 16) : (fixedSwap B)[i] = B[swapIndex i] :=
  have ⟨_, _, _, hsource, _⟩ := bytePermutationSources B i
  hsource

/-- Where a bit comes from in a rotation, the fixed swap and a mix after it. -/
def halfPipeSource (rot : Fin 16 → Fin 16) (p : BitPlace) : BitPlace :=
  Prod.map rot id (Prod.map swapIndex id (chainSource chainUp p))

/-- Where a bit comes from in `FWD_PIPE` without the mask (R164), the last step's source looked up first. -/
def fwdSource (p : BitPlace) : BitPlace := halfPipeSource colRotIndex (halfPipeSource rowRotIndex p)

theorem maskXor_T0 : maskXor tablesT0 B = B := block_ext fun i => by simp [tablesT0]

theorem subBlock_T0 : subBlock tablesT0 B = B := block_ext fun i => by simp [tablesT0]

theorem fwdPipe_T0_takesBitsFrom : TakesBitsFrom (fwdPipe tablesT0) fwdSource := by
  have hcol := takesBitsFrom_of_bytes colRot_getElem_index
  have hrow := takesBitsFrom_of_bytes rowRot_getElem_index
  have hswap := takesBitsFrom_of_bytes fixedSwap_getElem_index
  intro B p
  simp only [fwdPipe, maskXor_T0, blockMix_takesBitsFrom _ _, hswap _ _, hrow _ _, hcol _ _, fwdSource,
    halfPipeSource]

theorem fwdPipe_injective : Function.Injective (fwdPipe t) := Function.LeftInverse.injective (invPipe_fwdPipe t)

theorem encRound_T0 : encRound tablesT0 B K = fwdPipe tablesT0 (keyXor B K) := by rw [encRound, subBlock_T0]

/-- What the round's value and the key both hold falls out of their XOR. -/
theorem keyXor_cancel_middle (E P Q K : Block) :
    keyXor (keyXor E (keyXor P Q)) (keyXor K P) = keyXor E (keyXor K Q) := by
  refine block_ext_bitAt fun p => ?_
  simp only [bitAt_keyXor]
  generalize bitAt E p = e, bitAt P p = x, bitAt Q p = y, bitAt K p = z
  decide +revert

/-- With a key and its image under the pipe XORed together, what the key adds to the rounds telescopes. -/
theorem encRounds_T0_telescope (r : Nat) :
    encRounds tablesT0 B (keyXor K (fwdPipe tablesT0 K)) r =
      keyXor (encRounds tablesT0 B Block.zero r) (keyXor (fwdPipe tablesT0 K) ((fwdPipe tablesT0)^[r + 1] K)) := by
  induction r with
  | zero => exact block_ext_bitAt fun p => by simp
  | succ r ih =>
    rw [encRounds_succ, ih, encRound_T0, keyXor_cancel_middle, encRounds_succ, encRound_T0, keyXor_zero,
      Function.iterate_succ_apply' _ (r + 1)]
    simp only [fwdPipe_T0_takesBitsFrom.map_keyXor]

/-- Such a key encrypts as the zero key does, if 17 pipes take it to itself: the whitening adds what the rounds lack. -/
theorem encryptBlock_T0_eq_zero_key (hK : (fwdPipe tablesT0)^[17] K = K) :
    encryptBlock tablesT0 B (keyXor K (fwdPipe tablesT0 K)) = encryptBlock tablesT0 B Block.zero := by
  rw [encryptBlock, encRounds_T0_telescope, hK, encryptBlock, keyXor_zero]
  exact block_ext_bitAt fun p => by simp

/-- A cycle of 17 places: after each, the place that its bit comes from in the pipe. -/
def sourceCycle : Fin 17 → BitPlace :=
  ![(4, 1), (14, 5), (5, 2), (14, 1), (7, 6), (13, 0), (5, 3), (8, 7), (10, 5), (12, 2), (8, 1), (5, 6), (12, 0),
    (11, 3), (13, 7), (6, 5), (2, 2)]

/-- The places on that cycle halfway through the pipe. -/
def halfwayCycle : Fin 17 → BitPlace :=
  ![(0, 7), (10, 0), (2, 3), (10, 7), (12, 5), (10, 2), (6, 1), (3, 6), (1, 0), (9, 3), (12, 7), (2, 5), (9, 2),
    (12, 1), (7, 6), (2, 0), (8, 3)]

theorem halfPipeSource_sourceCycle (n : Fin 17) : halfPipeSource rowRotIndex (sourceCycle n) = halfwayCycle n := by
  decide +revert

theorem halfPipeSource_halfwayCycle (n : Fin 17) :
    halfPipeSource colRotIndex (halfwayCycle n) = sourceCycle (n + 1) := by
  decide +revert

theorem fwdSource_sourceCycle : Function.Semiconj sourceCycle (· + 1) fwdSource := fun n => by
  rw [fwdSource, halfPipeSource_sourceCycle, halfPipeSource_halfwayCycle]

theorem fwdPipe_T0_oneBit : fwdPipe tablesT0 (oneBit (4, 1)) = oneBit (2, 2) :=
  fwdPipe_T0_takesBitsFrom.map_oneBit (fwdPipe_injective _) (fwdSource_sourceCycle 16).symm

theorem fwdPipe_T0_iterate_oneBit : (fwdPipe tablesT0)^[17] (oneBit (4, 1)) = oneBit (4, 1) :=
  (fwdPipe_T0_takesBitsFrom.iterate 17).map_oneBit ((fwdPipe_injective _).iterate 17)
    (fwdSource_sourceCycle.iterate_right 17 0).symm

/-! ### The engine at a round boundary (R185, R186, R242) -/

/-- An engine that runs a command on operands it took over in state `s`: `work` in `S`, `RC` rounds counted. -/
def runningAt (i : Instr) (k : Block) (s : State) (r : Fin 17) (work : Block) : State :=
  { s with
    opr := encode i, status := 0b0001, blkOut := none, work := work, kr := k, rc := r, ph := runPhase i }

/-- An engine that has completed such a command with the result in `S` (R38). -/
def completedAt (i : Instr) (k : Block) (s : State) (result : Block) : State :=
  { s with
    opr := encode i, status := 0b0010, blkOut := some result, work := result, kr := k, rc := 16, ph := .idle }

theorem advanceN_succ_last (n : Nat) (s : State) : advanceN t (n + 1) s = advance t (advanceN t n s) :=
  advanceN_add t n 1 s

/-- R182, R185: a round of a DECRYPT that does not raise. -/
theorem advance_of_decRound_ok {s : State} {D : Block} (hp : s.ph = .runDec) (hr : s.rc.val < 16)
    (hD : decRound t (decInput s) s.kr = .ok D) : advance t s = endRound D s := by
  simp [advance, advanceDec, hp, hr, hD]

section RoundBoundary

variable {s : State} {b k : Block}

/-- R37: what an acceptance of two blocks leaves is the engine at round boundary 0. -/
theorem accept_eq_runningAt (i : Instr) (hb : s.blkIn = b.toList) (hk : s.keyIn = k.toList) :
    accept i s = runningAt i k s 0 b :=
  accept_blocks i hb hk

theorem advance_runningAt_encrypt (r : Fin 16) (w : Block) :
    advance t (runningAt .encrypt k s r.castSucc w) = runningAt .encrypt k s r.succ (encRound t w k) := by
  have hround : advance t (runningAt .encrypt k s r.castSucc w) =
      endRound (encRound t w k) (runningAt .encrypt k s r.castSucc w) := if_pos r.isLt
  rw [hround, ← Fin.coeSucc_eq_succ]
  rfl

theorem advanceN_runningAt_encrypt (r : Fin 17) :
    advanceN t r.val (runningAt .encrypt k s 0 b) = runningAt .encrypt k s r (encRounds t b k r.val) := by
  induction r using Fin.induction with
  | zero => rfl
  | succ r ih =>
    rw [Fin.val_succ, advanceN_succ_last, ← Fin.val_castSucc, ih, advance_runningAt_encrypt]
    rfl

/-- R180, R38: the seventeenth move of an ENCRYPT whitens and completes. -/
theorem advanceN_seventeen_encrypt :
    advanceN t 17 (runningAt .encrypt k s 0 b) = completedAt .encrypt k s (encryptBlock t b k) := by
  have hlast : advanceN t 16 (runningAt .encrypt k s 0 b) = runningAt .encrypt k s 16 (encRounds t b k 16) :=
    advanceN_runningAt_encrypt t 16
  rw [advanceN_succ_last, hlast]
  rfl

/-- The round at boundary r starts from `D_r`: at boundary 0 from the key XOR of the input (R182, log entry 6). -/
theorem decInput_runningAt (r : Fin 17) {D : Block} (hD : decRounds t b k r.val = .ok D) :
    decInput (runningAt .decrypt k s r (if r.val = 0 then b else D)) = D := by
  by_cases h0 : r.val = 0
  · rw [h0] at hD
    simpa [decInput, runningAt, h0] using hD
  · simp [decInput, runningAt, h0]

theorem advance_runningAt_decrypt (r : Fin 16) {w D : Block}
    (hD : decRound t (decInput (runningAt .decrypt k s r.castSucc w)) k = .ok D) :
    advance t (runningAt .decrypt k s r.castSucc w) = runningAt .decrypt k s r.succ D := by
  have hround : advance t (runningAt .decrypt k s r.castSucc w) = endRound D (runningAt .decrypt k s r.castSucc w) :=
    advance_of_decRound_ok t rfl r.isLt hD
  rw [hround, ← Fin.coeSucc_eq_succ]
  rfl

theorem advanceN_runningAt_decrypt (r : Fin 17) {D : Block} (hD : decRounds t b k r.val = .ok D) :
    advanceN t r.val (runningAt .decrypt k s 0 b) = runningAt .decrypt k s r (if r.val = 0 then b else D) := by
  induction r using Fin.induction generalizing D with
  | zero => rfl
  | succ r ih =>
    obtain ⟨D', hD', hround⟩ := decRounds_succ_eq_ok t hD
    rw [← decInput_runningAt t (s := s) r.castSucc hD'] at hround
    rw [Fin.val_succ, advanceN_succ_last, ← Fin.val_castSucc, ih hD', advance_runningAt_decrypt t r hround]
    rfl

/-- R182, R38: the seventeenth move of a DECRYPT that does not raise completes with `D_16`. -/
theorem advanceN_seventeen_decrypt {P : Block} (hP : decryptBlock t b k = .ok P) :
    advanceN t 17 (runningAt .decrypt k s 0 b) = completedAt .decrypt k s P := by
  have hlast : advanceN t 16 (runningAt .decrypt k s 0 b) = runningAt .decrypt k s 16 P :=
    advanceN_runningAt_decrypt t 16 hP
  rw [advanceN_succ_last, hlast]
  rfl

/-! ### exec on blocks, up to its window -/

theorem exec_of_window {n : Nat} (i : Instr) (hidle : s.ph = .idle) (hb : s.blkIn = b.toList)
    (hk : s.keyIn = k.toList) (hw : s.window = some n) :
    exec i s = .next (advanceN Config.tables n (runningAt i k s 0 b)) := by
  have hwindow : (runningAt i k s 0 b).window = some n := hw
  rw [exec_eq, runCommand_idle _ i hidle, accept_eq_runningAt i hb hk, runWindow, hwindow]

/-- R186: a window of seventeen moves or more, or none, is as good as seventeen. -/
theorem exec_of_window_ends (i : Instr) (hidle : s.ph = .idle) (hb : s.blkIn = b.toList) (hk : s.keyIn = k.toList)
    (hw : s.window = none ∨ ∃ n, s.window = some n ∧ 17 ≤ n) :
    exec i s = .next (advanceN Config.tables 17 (runningAt i k s 0 b)) := by
  rcases hw with hnone | ⟨n, hsome, hn⟩
  · rw [exec_eq, runCommand_idle _ i hidle, runWindow_none _ (by simpa using hnone), accept_eq_runningAt i hb hk]
  · obtain ⟨m, rfl⟩ := Nat.exists_eq_add_of_le hn
    rw [exec_of_window i hidle hb hk hsome, advanceN_add, advanceN_idle _ m (advanceN_seventeen_ph ..)]

end RoundBoundary

/-! ### CorruptTableError is not reported (R182, R201) -/

/-- Log entry 1: the hardware's table is a permutation. -/
theorem configTables_admitted : Config.tables.admitted = true :=
  (admitted_iff_injective Config.tables).mpr Config.sbox.injective

theorem noCorruptTable_congr {s u : State} (h : u.status = s.status) : u.noCorruptTable ↔ s.noCorruptTable := by
  simp only [State.noCorruptTable, h]

theorem noCorruptTable_of_status {s : State} {st : BitVec 4} (h : s.status = st)
    (hst : statusErr st ≠ errCode .corruptTable) : s.noCorruptTable := by
  rwa [State.noCorruptTable, h]

/-- Of all a move can do, only a round that raises reports the error, and over admitted tables none raises. -/
theorem advance_noCorruptTable (ha : t.admitted = true) {s : State} (hs : s.noCorruptTable) :
    (advance t s).noCorruptTable := by
  rcases advance_cases t s with
    ⟨-, e⟩ | ⟨-, -, e⟩ | ⟨-, -, e⟩ | ⟨-, -, b, -, e⟩ | ⟨-, -, hraise, -⟩ | ⟨-, -, e⟩
  · rwa [e]
  · rw [e]; exact hs
  · rw [e]; exact noCorruptTable_of_status (complete_status _) (by decide)
  · rw [e]; exact hs
  · obtain ⟨P, hP⟩ := exists_decRound_eq_ok t (decInput s) s.kr ha
    exact nomatch hP.symm.trans hraise
  · rw [e]; exact noCorruptTable_of_status (complete_status _) (by decide)

/-- An acceptance clears ERR, or sets it to InvalidBlockSizeError (R37, R200). -/
theorem accept_noCorruptTable (i : Instr) (s : State) : (accept i s).noCorruptTable := by
  rcases accept_cases i s with ⟨b, k, -, -, e⟩ | ⟨-, e⟩ <;> rw [e]
  · exact noCorruptTable_of_status (latchCommand_status i s) (by decide)
  · exact noCorruptTable_of_status (takeError_status ..) (by decide)

theorem runWindow_noCorruptTable (ha : t.admitted = true) {s : State} (hs : s.noCorruptTable) :
    (runWindow t s).noCorruptTable :=
  runWindow_induct t (P := State.noCorruptTable) (fun _ => advance_noCorruptTable t ha) hs

/-! ### The settled statements -/

/-- Settles O40: a move over admitted tables never comes to report the error, an acceptance and a reset set ERR to
another value, and the rest of what a step can do leaves STATUS alone. -/
theorem stepNeverCorruptTable : Obligations.StepNeverCorruptTable := by
  intro s s' hs h
  rcases stepIn_next Config.tables exec h with rfl | ⟨e, rest, u, -, -, -, hu, -, -, rfl⟩ |
    ⟨e, rest, -, -, rfl⟩ | ⟨e, rest, -, -, -, -, rfl⟩ | ⟨e, rest, -, -, -, -, hrun⟩
  · exact advance_noCorruptTable _ configTables_admitted hs
  · obtain ⟨-, hstatus, -⟩ := hu
    exact runWindow_noCorruptTable _ configTables_admitted ((noCorruptTable_congr hstatus).mpr hs)
  · exact noCorruptTable_of_status (st := 0) rfl (by decide)
  · exact hs
  · obtain ⟨-, rfl⟩ := exec_next hrun
    exact runWindow_noCorruptTable _ configTables_admitted (accept_noCorruptTable _ _)

/-- Settles O22: a decryption's first XOR takes off the whitening, and each round the last round of encryption left. -/
theorem roundValuesMirrored : Obligations.RoundValuesMirrored :=
  fun t B K _ ha hr => decRounds_encryptBlock t B K ha hr

/-- Settles O21: the mirrored round values at the last round; and every block is a ciphertext. -/
theorem cipherRoundTrip : Obligations.CipherRoundTrip := by
  refine fun t B K ha => ⟨decryptBlock_encryptBlock t B K ha, ?_⟩
  obtain ⟨P, rfl⟩ := exists_encryptBlock_eq t B K ha
  exact ⟨P, decryptBlock_encryptBlock t P K ha, rfl⟩

/-- Settles O23: the lists run round by round as the ciphers do, and one is the other reversed and inverted. -/
theorem flatMicroSequence : Obligations.FlatMicroSequence := by
  refine ⟨encryptOps_length, ?_, fun t B K => ?_, fun t C K => microRun_repeatOps_decRoundOps t C K rounds,
    fun n hn hle => ?_, fun t K S T op ha h => microStep_inverseOp t K ha op h⟩
  · simp only [decryptOps_eq_map_inverseOp_reverse, List.length_map, List.length_reverse, encryptOps_length]
  · exact microRun_append t K _ _ (microRun_repeatOps_encRoundOps t B K rounds)
  · have hindex : 145 - 1 - (n - 1) = 146 - n - 1 := by omega
    rw [decryptOps_eq_map_inverseOp_reverse, List.getElem?_map,
      List.getElem?_reverse (by rw [encryptOps_length]; omega), encryptOps_length, hindex]

/-- Settles O25: the key is a bit and the bit the pipe takes it to, on a cycle of 17 places. -/
theorem keySensitivityFailsUnderT0 : Obligations.KeySensitivityFailsUnderT0 := by
  intro B
  have hkey : (#v[0, 0, 4, 0, 2, 0, 0, 0, 0, 0, 0, 0, 0, 0, 0, 0] : Block) =
      keyXor (oneBit (4, 1)) (fwdPipe tablesT0 (oneBit (4, 1))) := by
    rw [fwdPipe_T0_oneBit]
    refine block_ext fun i => ?_
    simp only [oneBit, Fin.getElem_fin, keyXor_getElem, Vector.getElem_ofFn]
    fin_cases i <;> rfl
  rw [hkey]
  exact encryptBlock_T0_eq_zero_key B _ fwdPipe_T0_iterate_oneBit

/-- Settles O26: seventeen moves from acceptance, the last of them the completion. -/
theorem encryptCompletes : Obligations.EncryptCompletes := by
  intro s b k hidle hb hk hw
  rw [exec_of_window_ends .encrypt hidle hb hk hw, advanceN_seventeen_encrypt]
  rfl

/-- Settles O27: likewise, over tables under which no round raises. -/
theorem decryptCompletes : Obligations.DecryptCompletes := by
  intro s c k hidle hb hk hw
  obtain ⟨P, hP⟩ := exists_decRounds_eq_ok Config.tables c k configTables_admitted le_rfl
  refine ⟨P, hP, ?_⟩
  rw [exec_of_window_ends .decrypt hidle hb hk hw, advanceN_seventeen_decrypt _ hP]
  rfl

/-- Settles O28: acceptance is boundary 0, and each move goes on to the next. -/
theorem encryptAtRoundBoundary : Obligations.EncryptAtRoundBoundary := by
  intro s b k r hidle hb hk hw
  rw [exec_of_window .encrypt hidle hb hk hw, advanceN_runningAt_encrypt]
  rfl

/-- Settles O29: likewise, over tables under which no round raises. -/
theorem decryptAtRoundBoundary : Obligations.DecryptAtRoundBoundary := by
  intro s c k r hidle hb hk hw
  obtain ⟨D, hD⟩ := exists_decRounds_eq_ok Config.tables c k configTables_admitted (Nat.le_of_lt_succ r.isLt)
  refine ⟨D, hD, ?_⟩
  rw [exec_of_window .decrypt hidle hb hk hw, advanceN_runningAt_decrypt _ r hD]
  rfl

/-- Settles O36: both commands complete, the second on the first's ciphertext, which decrypts to the block. -/
theorem interfaceRoundTrip : Obligations.InterfaceRoundTrip := by
  intro s b k hidle hb hk hw
  obtain ⟨P, hP, hdec⟩ := decryptCompletes
    (writeBlk (encryptBlock Config.tables b k).toList (completedAt .encrypt k s (encryptBlock Config.tables b k)))
    _ k rfl rfl hk hw
  have hPb : b = P := Except.ok.inj ((decryptBlock_encryptBlock _ b k configTables_admitted).symm.trans hP)
  exact ⟨_, _, _, encryptCompletes s b k hidle hb hk hw, rfl, rfl, hdec, rfl, congrArg some hPb.symm⟩

/-- Settles O24: a count over the two lists as written. -/
theorem keyXorCount : Obligations.KeyXorCount := by
  unfold Obligations.KeyXorCount
  decide

end Sys2Proof.Machine
end

section
/-! PROOFS, exceptions (spec 60_exceptions.md). First the two ways a command ends in an error: at acceptance, where an
operand has a wrong length, and in the first round of a DECRYPT that raises. Then that an engine which runs no DECRYPT
does not come to report CorruptTableError. Then the statements settled. -/

namespace Sys2Proof.Machine

variable (t : Tables)

/-! ### Acceptance of a wrong length (R200) -/

theorem accept_of_length_ne (i : Instr) {s : State} (h : s.blkIn.length ≠ 16 ∨ s.keyIn.length ≠ 16) :
    accept i s = takeError .invalidBlockSize (latchCommand i s) := by
  rcases accept_cases i s with ⟨b, k, hb, hk, -⟩ | ⟨-, e⟩
  · simp [hb, hk] at h
  · exact e

/-! ### The first round that raises (R201, R203) -/

section DecryptRaises

variable {t} {s : State} {c k D : Block} {e : EngineError} {r : Nat}

/-- R203: the rounds before one that has a value have values too. -/
theorem exists_decRounds_eq_ok_of_le {n : Nat} (hD : decRounds t c k r = .ok D) (hn : n ≤ r) :
    ∃ D' : Block, decRounds t c k n = .ok D' := by
  induction hn generalizing D with
  | refl => exact ⟨D, hD⟩
  | step _ ih =>
    obtain ⟨D', hD', -⟩ := decRounds_succ_eq_ok t hD
    exact ih hD'

/-- Where some round has no value, there is a first such round, and it raises the same error. -/
theorem exists_first_decRounds_error {n : Nat} (he : decRounds t c k n = .error e) :
    ∃ (r : Nat) (D : Block), r < n ∧ decRounds t c k r = .ok D ∧ decRounds t c k (r + 1) = .error e := by
  induction n with
  | zero => cases he
  | succ n ih =>
    cases hn : decRounds t c k n with
    | ok D => exact ⟨n, D, n.lt_succ_self, hn, he⟩
    | error e' =>
      have hee : e' = e := Except.error.inj ((decRounds_succ_of_error t hn).symm.trans he)
      obtain ⟨r, D, hr, hD, hraise⟩ := ih (hee ▸ hn)
      exact ⟨r, D, Nat.lt_succ_of_lt hr, hD, hraise⟩

/-- R39, R201: a round of a DECRYPT that raises ends the command. -/
theorem advance_of_decRound_error (hp : s.ph = .runDec) (hr : s.rc.val < 16)
    (he : decRound t (decInput s) s.kr = .error e) :
    advance t s = takeError e (setWork (decInput s) s) := by
  simp [advance, advanceDec, hp, hr, he]

/-- A DECRYPT whose round r + 1 is the first to raise ends in that round's move, and stays as that move leaves it. -/
theorem advanceN_runningAt_decrypt_error {n : Nat} (hr : r < 16) (hD : decRounds t c k r = .ok D)
    (he : decRounds t c k (r + 1) = .error e) (hn : r < n) :
    advanceN t n (runningAt .decrypt k s 0 c) = takeError e (runningAt .decrypt k s ⟨r, by omega⟩ D) := by
  obtain ⟨m, rfl⟩ := Nat.exists_eq_add_of_le (Nat.succ_le_of_lt hn)
  have hboundary := advanceN_runningAt_decrypt t (s := s) ⟨r, by omega⟩ hD
  have hinput := decInput_runningAt t (s := s) ⟨r, by omega⟩ hD
  have hround : decRound t D k = .error e := (decRounds_succ_of_ok t hD).symm.trans he
  rw [← hinput] at hround
  rw [advanceN_add, Nat.succ_eq_add_one, advanceN_succ_last, hboundary, advance_of_decRound_error rfl hr hround,
    hinput, advanceN_idle _ _ (takeError_ph ..)]
  rfl

@[simp] theorem runningAt_window (i : Instr) (k : Block) (s : State) (r : Fin 17) (w : Block) :
    (runningAt i k s r w).window = s.window := rfl

/-- Under a window that reaches the round, or none, that is how the command ends. -/
theorem runWindow_decrypt_error (hr : r < 16) (hD : decRounds t c k r = .ok D)
    (he : decRounds t c k (r + 1) = .error e) (hw : s.window = none ∨ ∃ n, s.window = some n ∧ r < n) :
    runWindow t (runningAt .decrypt k s 0 c) = takeError e (runningAt .decrypt k s ⟨r, by omega⟩ D) := by
  rcases hw with hnone | ⟨n, hsome, hn⟩
  · rw [runWindow_none t ((runningAt_window ..).trans hnone)]
    exact advanceN_runningAt_decrypt_error hr hD he (by omega)
  · rw [runWindow, runningAt_window, hsome]
    exact advanceN_runningAt_decrypt_error hr hD he hn

/-- Under a window of n moves that ends before, the command is running at round boundary n. -/
theorem runWindow_decrypt_running {n : Nat} (hr : r < 16) (hD : decRounds t c k r = .ok D)
    (hw : s.window = some n) (hn : n ≤ r) :
    ∃ w : Block, runWindow t (runningAt .decrypt k s 0 c) = runningAt .decrypt k s ⟨n, by omega⟩ w := by
  obtain ⟨D', hD'⟩ := exists_decRounds_eq_ok_of_le hD hn
  rw [runWindow, runningAt_window, hw]
  exact ⟨_, advanceN_runningAt_decrypt t ⟨n, by omega⟩ hD'⟩

end DecryptRaises

/-! ### Without a DECRYPT there is no CorruptTableError -/

/-- Of all a move can do, only a round of a DECRYPT reports the error, and no move makes a DECRYPT of anything else. -/
theorem advance_keeps_not_runDec {s : State} (h : s.ph ≠ .runDec ∧ s.noCorruptTable) :
    (advance t s).ph ≠ .runDec ∧ (advance t s).noCorruptTable := by
  obtain ⟨hph, hs⟩ := h
  rcases advance_cases t s with
    ⟨-, e⟩ | ⟨-, -, e⟩ | ⟨-, -, e⟩ | ⟨hdec, -⟩ | ⟨hdec, -⟩ | ⟨hdec, -⟩
  · rw [e]; exact ⟨hph, hs⟩
  · rw [e]; exact ⟨hph, hs⟩
  · rw [e]; exact ⟨nofun, noCorruptTable_of_status (complete_status _) (by decide)⟩
  · exact absurd hdec hph
  · exact absurd hdec hph
  · exact absurd hdec hph

theorem accept_encrypt_ph (s : State) : (accept .encrypt s).ph ≠ .runDec := by
  rcases accept_cases .encrypt s with ⟨b, k, -, -, e⟩ | ⟨-, e⟩
  · simp [e, runPhase]
  · simp [e]

theorem encryptIn_noCorruptTable {s s' : State} (h : encryptIn t s = .next s') : s'.noCorruptTable := by
  obtain ⟨-, rfl⟩ := runCommand_next t h
  have hwindow := runWindow_induct t (P := fun s => s.ph ≠ .runDec ∧ s.noCorruptTable)
    (fun _ => advance_keeps_not_runDec t) ⟨accept_encrypt_ph s, accept_noCorruptTable .encrypt s⟩
  exact hwindow.2

/-! ### The settled statements -/

/-- Settles O30: acceptance takes the error, which leaves the engine idle, so that the window makes no moves. -/
theorem wrongLengthTakesError : Obligations.WrongLengthTakesError := by
  intro i s hidle hlen
  rw [exec_eq, runCommand_idle _ i hidle, accept_of_length_ne i hlen, runWindow_idle _ (takeError_ph ..)]
  have herror : takeError .invalidBlockSize (latchCommand i s) =
      { s with opr := encode i, status := 0b0110, blkOut := none, ph := .idle } := rfl
  rw [herror, ← hidle]

/-- Settles O31: a window reaches the first round that raises, which ends the command, or it ends at a round boundary
before; and the moves of an ENCRYPT are none of a DECRYPT's. -/
theorem corruptTableAborts : Obligations.CorruptTableAborts := by
  refine ⟨fun t s c k D e r hidle hb hk hr hD he => ?_, fun t c k e he => exists_first_decRounds_error he,
    fun t s s' h => encryptIn_noCorruptTable t h⟩
  have hcorrupt : e = .corruptTable := decRound_error t D k ((decRounds_succ_of_ok t hD).symm.trans he)
  subst hcorrupt
  obtain ⟨haccept, -⟩ := accept_keeps .decrypt s
  obtain ⟨hwindow, -, -⟩ := runWindow_keeps t (accept .decrypt s)
  refine ⟨rfl, _, runCommand_idle t .decrypt hidle, sameHostSide_trans haccept hwindow, ?_⟩
  rw [accept_eq_runningAt .decrypt hb hk]
  have hreaches := runWindow_decrypt_error (s := s) hr hD he
  have hstops := fun n => runWindow_decrypt_running (s := s) (n := n) hr hD
  refine ⟨?_, fun hw => ?_, fun n hw hn => ?_⟩
  · cases hw : s.window with
    | none => rw [hreaches (.inl hw)]; rfl
    | some n =>
      rcases Nat.lt_or_ge r n with hn | hn
      · rw [hreaches (.inr ⟨n, hw, hn⟩)]; rfl
      · obtain ⟨w, hrun⟩ := hstops n hw hn
        rw [hrun]; rfl
  · rw [hreaches hw]
    exact ⟨rfl, rfl⟩
  · obtain ⟨w, hrun⟩ := hstops n hw hn
    rw [hrun]
    exact ⟨rfl, rfl⟩

/-- Settles O32: an idle engine accepts, and a busy one refuses by name. -/
theorem commandAcceptedIffIdle : Obligations.CommandAcceptedIffIdle := by
  intro i s
  rw [exec_eq]
  by_cases hidle : s.ph = .idle
  · simp [runCommand_idle _ i hidle, hidle]
  · simp [runCommand_busy _ i hidle, hidle]

end Sys2Proof.Machine
end

section
/-! PROOFS, reset and hazards (spec 70_reset_and_hazards.md). First what a step does where it answers the state as it
is or a move of the engine: at an idle engine, and where the host is held, polls or has nothing left to do; then how
many such steps bring the engine to idle. Then the settled statements. -/

namespace Sys2Proof.Machine

/-! ### Steps at an idle engine (R241, R245) -/

section Step

variable {s s' : State} {w : Option Nat} {rest : List HostEntry}

/-- At an idle engine only a reset and a START with its operands written reach the engine. -/
theorem sameEngine_of_step (hidle : s.ph = .idle)
    (hhost : ∀ e rest, s.host = e :: rest → e.action ≠ .reset ∧ (e.action = .start → operandsWritten s = false))
    (h : step s = .next s') : sameEngine s s' := by
  rcases stepIn_next Config.tables exec h with rfl | ⟨e, rest, u, -, -, -, hu, -, -, rfl⟩ |
    ⟨e, rest, hh, hreset, -⟩ | ⟨e, rest, -, -, -, -, rfl⟩ | ⟨e, rest, hh, hstart, -, hwritten, -⟩
  · rw [advance_idle _ hidle]; exact sameEngine_refl s
  · have hsu : sameEngine s u := sameEngine_trans (sameEngine_nextAction ..) hu
    have ⟨_, _, _, hph, _⟩ := hsu
    rwa [runWindow_idle _ (hph.trans hidle)]
  · exact absurd hreset (hhost e rest hh).1
  · exact sameEngine_trans (sameEngine_nextAction ..) (sameEngine_recordStart _)
  · have hunwritten := (hhost e rest hh).2 hstart
    simp [hwritten] at hunwritten

theorem operandsWritten_congr (h : sameHostSide s s') : operandsWritten s' = operandsWritten s := by
  obtain ⟨-, -, -, hcmd, hblk, hkey, -⟩ := h
  simp only [operandsWritten, hcmd, hblk, hkey]

/-- No action but reset clears a mark. -/
theorem marks_after_of_written {a : HostAction} (ha : a ≠ .reset) :
    (Marks.mk true true true).after a = ⟨true, true, true⟩ := by
  cases a with
  | reset => exact absurd rfl ha
  | _ => rfl

/-- Operands once written count as written until reset (R241). -/
theorem operandsWritten_of_step (hwritten : operandsWritten s = true)
    (hhost : ∀ e rest, s.host = e :: rest → e.action ≠ .reset) (h : step s = .next s') :
    operandsWritten s' = true := by
  cases hh : s.host with
  | nil =>
    cases (stepIn_nil Config.tables exec hh).symm.trans h
    rw [operandsWritten_congr (advance_keeps Config.tables s).1, hwritten]
  | cons e rest =>
    rw [operandsWritten_iff_marks] at hwritten ⊢
    rcases step_marks hh (fun _ => (operandsWritten_iff_marks s).mpr hwritten) h with
      ⟨-, hmarks, -⟩ | ⟨-, hmarks, -⟩
    · rw [hmarks, hwritten]
    · rw [hmarks, hwritten, marks_after_of_written (hhost e rest hh)]

/-- R241: START at an idle engine whose operands are not all written is recorded, and the host goes on. -/
theorem step_start_unwritten (hidle : s.ph = .idle) (hw : operandsWritten s = false)
    (h : s.host = { action := .start, window := w } :: rest) :
    step s = .next { s with host := rest, window := w, startFault := true } :=
  (step_cons h).trans (doStart_unwritten Config.tables exec hidle hw)

theorem step_reset (h : s.host = { action := .reset, window := w } :: rest) :
    step s = .next (resetEngine (nextAction rest w s)) :=
  step_cons h

/-! ### Reading BLK_OUT (R29, R243) -/

theorem step_readOut_some {name : Name} {b : Block} (hb : s.blkOut = some b)
    (h : s.host = { action := .readOut name, window := w } :: rest) :
    step s = .next (runWindow Config.tables
      (bindReading { name := name, status := none, out := some b } (nextAction rest w s))) := by
  simp [step_cons h, doAction, doReadOut, hb]

theorem step_readOut_none {name : Name} (hb : s.blkOut = none)
    (h : s.host = { action := .readOut name, window := w } :: rest) : step s = .fault .readInvalidResult := by
  simp [step_cons h, doAction, doReadOut, hb]

/-- R29: what makes a result valid, of STATUS alone. -/
theorem resultValid_iff (st : BitVec 4) : resultValid st = true ↔ statusDone st = true ∧ statusErr st = errNone := by
  simp [resultValid]

theorem not_statusDone_of_busy (hs : s.consistent = true) (hp : s.ph ≠ .idle) : statusDone s.status = false := by
  rw [status_of_busy hs hp]; decide

/-! ### Steps that are one move of the engine (R240, R242, R249) -/

/-- R240: START is held while a command runs. -/
theorem step_start_busy (hp : s.ph ≠ .idle) (h : s.host = { action := .start, window := w } :: rest) :
    step s = .next (advance Config.tables s) :=
  (step_cons h).trans (doStart_busy Config.tables exec hp)

/-- R242: a poll that does not read DONE = 1 leaves WAIT the next action. -/
theorem step_wait_poll (hs : s.consistent = true) (hd : statusDone s.status = false)
    (h : s.host = { action := .wait, window := w } :: rest) : step s = .next (advance Config.tables s) := by
  simp [step_cons h, doAction, doWait, legalStatus_of_consistent hs, hd]

/-- R242: WAIT ends in the poll that reads DONE = 1. -/
theorem step_wait_done (hs : s.consistent = true) (hd : statusDone s.status = true)
    (h : s.host = { action := .wait, window := w } :: rest) :
    step s = .next (runWindow Config.tables (nextAction rest w s)) := by
  simp [step_cons h, doAction, doWait, legalStatus_of_consistent hs, hd]

/-- A run whose steps are moves of the engine is that many moves. -/
theorem core_run_eq_advanceN {n : Nat}
    (h : ∀ m < n, step (advanceN Config.tables m s) = .next (advance Config.tables (advanceN Config.tables m s))) :
    Host.Core.run Sys2Proof.core n s = .next (advanceN Config.tables n s) := by
  induction n generalizing s with
  | zero => rfl
  | succ n ih =>
    have hfirst : step s = .next (advance Config.tables s) := h 0 n.succ_pos
    exact (core_run_succ n hfirst).trans (ih fun m hm => h (m + 1) (Nat.succ_lt_succ hm))

end Step

/-! ### The moves that bring an engine to idle (R248, log entry 6) -/

section MovesToIdle

variable (t : Tables)

/-- There is a first number of moves after which the engine is idle, and it is 17 at most. -/
theorem exists_first_idle (s : State) :
    ∃ n ≤ 17, (advanceN t n s).ph = .idle ∧ ∀ m < n, (advanceN t m s).ph ≠ .idle := by
  have hex : ∃ n, (advanceN t n s).ph = .idle := ⟨17, advanceN_seventeen_ph t s⟩
  exact ⟨Nat.find hex, Nat.find_le (advanceN_seventeen_ph t s), Nat.find_spec hex, fun _ => Nat.find_min hex⟩

/-- A property of the engine that one move keeps is kept by any number of moves. -/
theorem advanceN_induct {P : State → Prop} (hP : ∀ s, P s → P (advance t s)) (n : Nat) {s : State} (h : P s) :
    P (advanceN t n s) := by
  induction n generalizing s with
  | zero => exact h
  | succ n ih => exact ih (hP s h)

theorem advanceN_host (n : Nat) (s : State) : (advanceN t n s).host = s.host :=
  (marks_of_sameHostSide (advanceN_keeps t n s).1).1

/-- A move that ends a command sets DONE, in completion and in error alike (R38, R39). -/
theorem advance_busy_or_done {s : State} (h : s.ph ≠ .idle ∨ statusDone s.status = true) :
    (advance t s).ph ≠ .idle ∨ statusDone (advance t s).status = true := by
  rcases advance_cases t s with
    ⟨-, e⟩ | ⟨hp, -, e⟩ | ⟨-, -, e⟩ | ⟨hp, -, b, -, e⟩ | ⟨-, -, -, e⟩ | ⟨-, -, e⟩ <;> rw [e]
  · exact h
  · left; simp [hp]
  · right; rw [complete_status]; decide
  · left; simp [hp]
  · right; rw [takeError_status]; decide
  · right; rw [complete_status]; decide

end MovesToIdle

/-! ### The settled statements -/

/-- Settles O43: a step to a state whose operands are not all written is a reset, or comes from a state in which they
were not written either, whose idle engine it does not reach. -/
theorem stepKeepsBlankUntilWritten : Obligations.StepKeepsBlankUntilWritten := by
  intro s s' hs h hunwritten'
  by_cases hreset : ∃ w rest, s.host = { action := .reset, window := w } :: rest
  · obtain ⟨w, rest, hh⟩ := hreset
    cases (step_reset hh).symm.trans h
    exact ⟨rfl, rfl, rfl⟩
  · have hno : ∀ e rest, s.host = e :: rest → e.action ≠ .reset :=
      fun e rest hh ha => hreset ⟨e.window, rest, by rw [hh, ← ha]⟩
    have hunwritten : operandsWritten s = false := Bool.eq_false_iff.mpr fun hwritten => by
      simp [operandsWritten_of_step hwritten hno h] at hunwritten'
    obtain ⟨hidle, hstatus, hout⟩ := hs hunwritten
    obtain ⟨hout', hstatus', -, hph', -⟩ :=
      sameEngine_of_step hidle (fun e rest hh => ⟨hno e rest hh, fun _ => hunwritten⟩) h
    exact ⟨hph'.trans hidle, hstatus'.trans hstatus, hout'.trans hout⟩

/-- Settles O41: each held step is a move, up to the first state whose engine is idle; the moves leave the host's side
alone. -/
theorem startHeldWhileBusy : Obligations.StartHeldWhileBusy := by
  intro s w rest hbusy h
  obtain ⟨n, hn, hidle, hrunning⟩ := exists_first_idle Config.tables s
  have hhost : ∀ m, (advanceN Config.tables m s).host = { action := .start, window := w } :: rest :=
    fun m => (advanceN_host _ m s).trans h
  obtain ⟨hside, -, -⟩ := advanceN_keeps Config.tables n s
  have hmarks := operandsWritten_congr hside
  obtain ⟨hcmd, -⟩ := hside
  refine ⟨step_start_busy hbusy h, n, advanceN Config.tables n s, hn,
    core_run_eq_advanceN fun m hm => step_start_busy (hrunning m hm) (hhost m), hidle, advanceN_host _ n s,
    fun hw => ?_, fun hw => step_start_unwritten hidle (hmarks.trans hw) (hhost n)⟩
  rw [stepRunsIssuedCommand _ w rest (hhost n) hidle (hmarks.trans hw), hcmd]

/-- Settles O45: each poll while a command runs is a move, and the move that ends the command sets DONE; at an idle
engine a poll that does not read DONE = 1 changes nothing. -/
theorem waitEnds : Obligations.WaitEnds := by
  refine fun s w rest hs h => ⟨fun hends => ?_, fun hidle hd => ?_⟩
  · obtain ⟨n, hn, hidle, hrunning⟩ := exists_first_idle Config.tables s
    have hhost : ∀ m, (advanceN Config.tables m s).host = { action := .wait, window := w } :: rest :=
      fun m => (advanceN_host _ m s).trans h
    have hcons : ∀ m, (advanceN Config.tables m s).consistent = true :=
      fun m => advanceN_induct _ (P := fun s => s.consistent = true) (fun _ => advance_consistent _) m hs
    have hrun : ∀ m ≤ n, Host.Core.run Sys2Proof.core m s = .next (advanceN Config.tables m s) := fun m hm =>
      core_run_eq_advanceN fun j hj =>
        step_wait_poll (hcons j) (not_statusDone_of_busy (hcons j) (hrunning j (by omega))) (hhost j)
    have hdone : statusDone (advanceN Config.tables n s).status = true :=
      (advanceN_induct _ (P := fun s => s.ph ≠ .idle ∨ statusDone s.status = true)
        (fun _ => advance_busy_or_done _) n hends).resolve_left (not_not_intro hidle)
    refine ⟨n, _, _, hn, fun hp => ?_, hrun n le_rfl, hidle, hdone, step_wait_done (hcons n) hdone (hhost n),
      by simp, ?_, fun m sm hm hsm => ?_⟩
    · exact Nat.eq_zero_of_not_pos fun hpos => hrunning 0 hpos hp
    · rw [runWindow_idle _ (by simpa using hidle)]
      exact sameView_of_sameEngine (sameEngine_nextAction ..)
    · cases (hrun m hm.le).symm.trans hsm
      exact status_of_busy (hcons m) (hrunning m hm)
  · rw [step_wait_poll hs hd h, advance_idle _ hidle]

/-- Settles O46: seventeen moves end any command, and with nothing left for the host to do a step is a move. -/
theorem everyCommandCompletes : Obligations.EveryCommandCompletes := by
  refine ⟨advanceN_seventeen_ph, fun s h => ⟨advanceN Config.tables 17 s, ?_, ?_⟩⟩
  · exact core_run_eq_advanceN fun m _ => stepIn_nil Config.tables exec ((advanceN_host _ m s).trans h)
  · simp [State.ended, advanceN_host, h]

/-- Settles O47: in a consistent state `BLK_OUT` has a result exactly where DONE = 1 and ERR = 0, and while a command
runs DONE is 0. -/
theorem invalidResultReadFaults : Obligations.InvalidResultReadFaults := by
  intro s name w rest hs h
  have hvalid : s.blkOut.isSome = true ↔ statusDone s.status = true ∧ statusErr s.status = errNone := by
    rw [blkOut_isSome_of_consistent hs, resultValid_iff]
  refine ⟨fun hinvalid => step_readOut_none ?_ h, fun hd he => ?_⟩
  · rw [← Option.not_isSome_iff_eq_none, hvalid]
    rintro ⟨hd, he⟩
    rcases hinvalid with hbusy | hnd | hne
    · simp [not_statusDone_of_busy hs hbusy] at hd
    · simp [hnd] at hd
    · exact hne he
  · obtain ⟨b, hb⟩ := Option.isSome_iff_exists.mp (hvalid.mpr ⟨hd, he⟩)
    refine ⟨_, b, hb, step_readOut_some hb h, ?_⟩
    rw [runWindow_reads, bindReading_reads, boundOut_cons_self]

/-- Settles O50: neither of the two actions that reach an idle engine is the next. -/
theorem resultPersists : Obligations.ResultPersists :=
  fun _ _ hidle hhost => sameEngine_of_step hidle fun e rest hh =>
    have ⟨hstart, hreset⟩ := hhost e rest hh
    ⟨hreset, fun ha => absurd ha hstart⟩

/-- Settles O8: the hardware's table is a permutation, whatever it holds. -/
theorem hardwareTablesAdmitted : Obligations.HardwareTablesAdmitted := configTables_admitted

/-- Settles O38: reset writes the same values over any engine, and only the host's own side stays. -/
theorem resetAbandonsCommand : Obligations.ResetAbandonsCommand :=
  fun _ _ _ h => ⟨_, step_reset h, rfl, rfl, rfl, rfl, rfl, rfl, rfl, rfl, rfl, rfl, rfl⟩

/-- Settles O42: the step sets the record and the host's side alone, so a blank engine stays blank. -/
theorem startBeforeOperandsRecorded : Obligations.StartBeforeOperandsRecorded := by
  intro s w rest hidle h hmark
  have hunwritten : operandsWritten s = false := by
    rcases hmark with hm | hm | hm <;> simp [operandsWritten, hm]
  exact ⟨_, step_start_unwritten hidle hunwritten h, rfl, sameEngine_refl s, fun hblank => hblank hunwritten⟩

end Sys2Proof.Machine
end
